-- ==== Sys2Proof/Word.lean ====
section
/-! DEFINITION. The word types of the block and nothing else (00_scope.md R10, R15; 30_encoding.md R111). -/

namespace Sys2Proof

/-- One unit of the command port: a header word or a payload word (30_encoding.md R111). -/
abbrev Word := BitVec 64

/-- One cell of VRAM, and one lane of a payload word (10_state.md R21). -/
abbrev VWord := BitVec 16

/-- A 15-bit colour as stored: red in bits 4:0, green in 9:5, blue in 14:10 (00_scope.md R15). -/
abbrev Colour15 := BitVec 15

/-- Eight bits, for byte images and pixel components. -/
abbrev Byte := BitVec 8

/-- The 9-bit tag of a write command: the scanline at which it takes effect (20_memory.md R94). -/
abbrev Tag := BitVec 9

end Sys2Proof
end

