-- ==== Sys2Proof/Syntax.lean ====
section
/-! DEFINITION. The command set as syntax (30_encoding.md R110): one constructor of `Instr` for each row of
spec/opcode_table.json, with the operands its format carries (R111). -/

namespace Sys2Proof

/-- The 46 registers of the Register/State Surface, in number order (10_state.md R30). -/
inductive RegName where
  | bright | bgmode | mosaic | mosaicph | bg1sc | bg2sc
  | bg3sc | bg4sc | bg1nba | bg2nba | bg3nba | bg4nba
  | bg1hofs | bg2hofs | bg3hofs | bg4hofs | bg1vofs | bg2vofs
  | bg3vofs | bg4vofs | obsel | m7sel | m7a | m7b
  | m7c | m7d | m7x | m7y | wh0 | wh1
  | wh2 | wh3 | wselBg1 | wselBg2 | wselBg3 | wselBg4
  | wselObj | wselCol | tm | ts | tmw | tsw
  | cgwsel | cgadsub | fixedcolor | interlace
deriving DecidableEq, Repr

/-- The operand fields of `WR_OAM` other than the index and the tag (40_memory_write_commands.md R144). -/
structure OamFields where
  size  : Bool
  vflip : Bool
  hflip : Bool
  prio  : BitVec 2
  pal   : BitVec 3
  name  : Bool
  tile  : BitVec 8
  y     : BitVec 8
  x     : BitVec 9
deriving DecidableEq, Repr

/-- A command of the port. Every write command carries its tag `eff` (20_memory.md R94). The length operand of
`WR_VRAM` is the number of its data words (30_encoding.md R118). -/
inductive Instr where
  /-- `NOP` (R141). -/
  | nop
  /-- `WR_VRAM off, [d0, ...] @eff` (R142). -/
  | wrVram (eff : Tag) (off : BitVec 16) (data : List VWord)
  /-- `WR_CGRAM idx, val @eff` (R143). -/
  | wrCgram (eff : Tag) (idx : BitVec 16) (val : BitVec 16)
  /-- `WR_OAM idx, fields @eff` (R144). -/
  | wrOam (eff : Tag) (idx : BitVec 8) (f : OamFields)
  /-- `WR_REG BRIGHT, val @eff` (R263). -/
  | wrBright (eff : Tag) (val : BitVec 16)
  /-- `WR_REG BGMODE, val @eff` (R264). -/
  | wrBgmode (eff : Tag) (val : BitVec 16)
  /-- `WR_REG MOSAIC, val @eff` (R265). -/
  | wrMosaic (eff : Tag) (val : BitVec 16)
  /-- `WR_REG MOSAICPH, val @eff` (R266). -/
  | wrMosaicph (eff : Tag) (val : BitVec 16)
  /-- `WR_REG BG1SC, val @eff` (R267). -/
  | wrBg1sc (eff : Tag) (val : BitVec 16)
  /-- `WR_REG BG2SC, val @eff` (R268). -/
  | wrBg2sc (eff : Tag) (val : BitVec 16)
  /-- `WR_REG BG3SC, val @eff` (R269). -/
  | wrBg3sc (eff : Tag) (val : BitVec 16)
  /-- `WR_REG BG4SC, val @eff` (R270). -/
  | wrBg4sc (eff : Tag) (val : BitVec 16)
  /-- `WR_REG BG1NBA, val @eff` (R271). -/
  | wrBg1nba (eff : Tag) (val : BitVec 16)
  /-- `WR_REG BG2NBA, val @eff` (R272). -/
  | wrBg2nba (eff : Tag) (val : BitVec 16)
  /-- `WR_REG BG3NBA, val @eff` (R273). -/
  | wrBg3nba (eff : Tag) (val : BitVec 16)
  /-- `WR_REG BG4NBA, val @eff` (R274). -/
  | wrBg4nba (eff : Tag) (val : BitVec 16)
  /-- `WR_REG BG1HOFS, val @eff` (R275). -/
  | wrBg1hofs (eff : Tag) (val : BitVec 16)
  /-- `WR_REG BG2HOFS, val @eff` (R276). -/
  | wrBg2hofs (eff : Tag) (val : BitVec 16)
  /-- `WR_REG BG3HOFS, val @eff` (R277). -/
  | wrBg3hofs (eff : Tag) (val : BitVec 16)
  /-- `WR_REG BG4HOFS, val @eff` (R278). -/
  | wrBg4hofs (eff : Tag) (val : BitVec 16)
  /-- `WR_REG BG1VOFS, val @eff` (R279). -/
  | wrBg1vofs (eff : Tag) (val : BitVec 16)
  /-- `WR_REG BG2VOFS, val @eff` (R280). -/
  | wrBg2vofs (eff : Tag) (val : BitVec 16)
  /-- `WR_REG BG3VOFS, val @eff` (R281). -/
  | wrBg3vofs (eff : Tag) (val : BitVec 16)
  /-- `WR_REG BG4VOFS, val @eff` (R282). -/
  | wrBg4vofs (eff : Tag) (val : BitVec 16)
  /-- `WR_REG OBSEL, val @eff` (R283). -/
  | wrObsel (eff : Tag) (val : BitVec 16)
  /-- `WR_REG M7SEL, val @eff` (R284). -/
  | wrM7sel (eff : Tag) (val : BitVec 16)
  /-- `WR_REG M7A, val @eff` (R285). -/
  | wrM7a (eff : Tag) (val : BitVec 16)
  /-- `WR_REG M7B, val @eff` (R286). -/
  | wrM7b (eff : Tag) (val : BitVec 16)
  /-- `WR_REG M7C, val @eff` (R287). -/
  | wrM7c (eff : Tag) (val : BitVec 16)
  /-- `WR_REG M7D, val @eff` (R288). -/
  | wrM7d (eff : Tag) (val : BitVec 16)
  /-- `WR_REG M7X, val @eff` (R289). -/
  | wrM7x (eff : Tag) (val : BitVec 16)
  /-- `WR_REG M7Y, val @eff` (R290). -/
  | wrM7y (eff : Tag) (val : BitVec 16)
  /-- `WR_REG WH0, val @eff` (R291). -/
  | wrWh0 (eff : Tag) (val : BitVec 16)
  /-- `WR_REG WH1, val @eff` (R292). -/
  | wrWh1 (eff : Tag) (val : BitVec 16)
  /-- `WR_REG WH2, val @eff` (R293). -/
  | wrWh2 (eff : Tag) (val : BitVec 16)
  /-- `WR_REG WH3, val @eff` (R294). -/
  | wrWh3 (eff : Tag) (val : BitVec 16)
  /-- `WR_REG WSEL_BG1, val @eff` (R295). -/
  | wrWselBg1 (eff : Tag) (val : BitVec 16)
  /-- `WR_REG WSEL_BG2, val @eff` (R296). -/
  | wrWselBg2 (eff : Tag) (val : BitVec 16)
  /-- `WR_REG WSEL_BG3, val @eff` (R297). -/
  | wrWselBg3 (eff : Tag) (val : BitVec 16)
  /-- `WR_REG WSEL_BG4, val @eff` (R298). -/
  | wrWselBg4 (eff : Tag) (val : BitVec 16)
  /-- `WR_REG WSEL_OBJ, val @eff` (R299). -/
  | wrWselObj (eff : Tag) (val : BitVec 16)
  /-- `WR_REG WSEL_COL, val @eff` (R300). -/
  | wrWselCol (eff : Tag) (val : BitVec 16)
  /-- `WR_REG TM, val @eff` (R301). -/
  | wrTm (eff : Tag) (val : BitVec 16)
  /-- `WR_REG TS, val @eff` (R302). -/
  | wrTs (eff : Tag) (val : BitVec 16)
  /-- `WR_REG TMW, val @eff` (R303). -/
  | wrTmw (eff : Tag) (val : BitVec 16)
  /-- `WR_REG TSW, val @eff` (R304). -/
  | wrTsw (eff : Tag) (val : BitVec 16)
  /-- `WR_REG CGWSEL, val @eff` (R305). -/
  | wrCgwsel (eff : Tag) (val : BitVec 16)
  /-- `WR_REG CGADSUB, val @eff` (R306). -/
  | wrCgadsub (eff : Tag) (val : BitVec 16)
  /-- `WR_REG FIXEDCOLOR, val @eff` (R307). -/
  | wrFixedcolor (eff : Tag) (val : BitVec 16)
  /-- `WR_REG INTERLACE, val @eff` (R308). -/
  | wrInterlace (eff : Tag) (val : BitVec 16)
  /-- `RENDER_LINE line` (R321). -/
  | renderLine (line : BitVec 16)
  /-- `RENDER_FRAME` (R326). -/
  | renderFrame
  /-- `GET_FRAME` (R327). -/
  | getFrame
deriving DecidableEq, Repr

end Sys2Proof
end

