-- ==== Sys2Proof/WellFormed.lean ====
section
/-! DEFINITION. Which commands can be presented at the port. Every operand but the data of `WR_VRAM` has its exact
width in `Instr`; the data's length must fit the 16-bit `len` field (30_encoding.md R111, R116). An index, offset or
tag outside its legal range is well-formed: it can be presented, and the core rejects it (R114). -/

namespace Sys2Proof

/-- The number of data words of a `WR_VRAM` fits its 16-bit `len` field; every other command is well-formed. -/
def Instr.wellFormed : Instr → Bool
  | .wrVram _ _ data => decide (data.length < 65536)
  | _ => true

end Sys2Proof
end

