-- ==== Sys2Proof/Decode.lean ====
section
/-! DEFINITION. The command-word encoding (30_encoding.md part 1): the decoder, total on any word stream and
rejecting by name, the encoder written from the same tables, the byte order of the stream (R113), the assembler's
pseudo-commands and text (R118, R119), and the host's table hook `decodeTableWord`. -/

namespace Sys2Proof

/-- The number of a register (10_state.md R30). -/
def RegName.number : RegName → Nat
  | .bright => 0x00
  | .bgmode => 0x01
  | .mosaic => 0x02
  | .mosaicph => 0x03
  | .bg1sc => 0x04
  | .bg2sc => 0x05
  | .bg3sc => 0x06
  | .bg4sc => 0x07
  | .bg1nba => 0x08
  | .bg2nba => 0x09
  | .bg3nba => 0x0A
  | .bg4nba => 0x0B
  | .bg1hofs => 0x0C
  | .bg2hofs => 0x0D
  | .bg3hofs => 0x0E
  | .bg4hofs => 0x0F
  | .bg1vofs => 0x10
  | .bg2vofs => 0x11
  | .bg3vofs => 0x12
  | .bg4vofs => 0x13
  | .obsel => 0x14
  | .m7sel => 0x15
  | .m7a => 0x16
  | .m7b => 0x17
  | .m7c => 0x18
  | .m7d => 0x19
  | .m7x => 0x1A
  | .m7y => 0x1B
  | .wh0 => 0x1C
  | .wh1 => 0x1D
  | .wh2 => 0x1E
  | .wh3 => 0x1F
  | .wselBg1 => 0x20
  | .wselBg2 => 0x21
  | .wselBg3 => 0x22
  | .wselBg4 => 0x23
  | .wselObj => 0x24
  | .wselCol => 0x25
  | .tm => 0x26
  | .ts => 0x27
  | .tmw => 0x28
  | .tsw => 0x29
  | .cgwsel => 0x2A
  | .cgadsub => 0x2B
  | .fixedcolor => 0x2C
  | .interlace => 0x2D

/-- The name of a register as the spec writes it (10_state.md R30). -/
def RegName.text : RegName → String
  | .bright => "BRIGHT"
  | .bgmode => "BGMODE"
  | .mosaic => "MOSAIC"
  | .mosaicph => "MOSAICPH"
  | .bg1sc => "BG1SC"
  | .bg2sc => "BG2SC"
  | .bg3sc => "BG3SC"
  | .bg4sc => "BG4SC"
  | .bg1nba => "BG1NBA"
  | .bg2nba => "BG2NBA"
  | .bg3nba => "BG3NBA"
  | .bg4nba => "BG4NBA"
  | .bg1hofs => "BG1HOFS"
  | .bg2hofs => "BG2HOFS"
  | .bg3hofs => "BG3HOFS"
  | .bg4hofs => "BG4HOFS"
  | .bg1vofs => "BG1VOFS"
  | .bg2vofs => "BG2VOFS"
  | .bg3vofs => "BG3VOFS"
  | .bg4vofs => "BG4VOFS"
  | .obsel => "OBSEL"
  | .m7sel => "M7SEL"
  | .m7a => "M7A"
  | .m7b => "M7B"
  | .m7c => "M7C"
  | .m7d => "M7D"
  | .m7x => "M7X"
  | .m7y => "M7Y"
  | .wh0 => "WH0"
  | .wh1 => "WH1"
  | .wh2 => "WH2"
  | .wh3 => "WH3"
  | .wselBg1 => "WSEL_BG1"
  | .wselBg2 => "WSEL_BG2"
  | .wselBg3 => "WSEL_BG3"
  | .wselBg4 => "WSEL_BG4"
  | .wselObj => "WSEL_OBJ"
  | .wselCol => "WSEL_COL"
  | .tm => "TM"
  | .ts => "TS"
  | .tmw => "TMW"
  | .tsw => "TSW"
  | .cgwsel => "CGWSEL"
  | .cgadsub => "CGADSUB"
  | .fixedcolor => "FIXEDCOLOR"
  | .interlace => "INTERLACE"

/-- The 46 registers, in number order. -/
def RegName.all : List RegName :=
  [.bright, .bgmode, .mosaic, .mosaicph, .bg1sc, .bg2sc, .bg3sc, .bg4sc,
   .bg1nba, .bg2nba, .bg3nba, .bg4nba, .bg1hofs, .bg2hofs, .bg3hofs, .bg4hofs,
   .bg1vofs, .bg2vofs, .bg3vofs, .bg4vofs, .obsel, .m7sel, .m7a, .m7b,
   .m7c, .m7d, .m7x, .m7y, .wh0, .wh1, .wh2, .wh3,
   .wselBg1, .wselBg2, .wselBg3, .wselBg4, .wselObj, .wselCol, .tm, .ts,
   .tmw, .tsw, .cgwsel, .cgadsub, .fixedcolor, .interlace]

/-- The register a number names, if it names one (10_state.md R30; 30_encoding.md R112). -/
def RegName.ofNumber (n : Nat) : Option RegName := RegName.all.find? (fun r => r.number == n)

/-- The `WR_REG` command of a register: each register has a form of its own (30_encoding.md R112). -/
def regInstr (r : RegName) (eff : Tag) (val : BitVec 16) : Instr :=
  match r with
  | .bright => .wrBright eff val
  | .bgmode => .wrBgmode eff val
  | .mosaic => .wrMosaic eff val
  | .mosaicph => .wrMosaicph eff val
  | .bg1sc => .wrBg1sc eff val
  | .bg2sc => .wrBg2sc eff val
  | .bg3sc => .wrBg3sc eff val
  | .bg4sc => .wrBg4sc eff val
  | .bg1nba => .wrBg1nba eff val
  | .bg2nba => .wrBg2nba eff val
  | .bg3nba => .wrBg3nba eff val
  | .bg4nba => .wrBg4nba eff val
  | .bg1hofs => .wrBg1hofs eff val
  | .bg2hofs => .wrBg2hofs eff val
  | .bg3hofs => .wrBg3hofs eff val
  | .bg4hofs => .wrBg4hofs eff val
  | .bg1vofs => .wrBg1vofs eff val
  | .bg2vofs => .wrBg2vofs eff val
  | .bg3vofs => .wrBg3vofs eff val
  | .bg4vofs => .wrBg4vofs eff val
  | .obsel => .wrObsel eff val
  | .m7sel => .wrM7sel eff val
  | .m7a => .wrM7a eff val
  | .m7b => .wrM7b eff val
  | .m7c => .wrM7c eff val
  | .m7d => .wrM7d eff val
  | .m7x => .wrM7x eff val
  | .m7y => .wrM7y eff val
  | .wh0 => .wrWh0 eff val
  | .wh1 => .wrWh1 eff val
  | .wh2 => .wrWh2 eff val
  | .wh3 => .wrWh3 eff val
  | .wselBg1 => .wrWselBg1 eff val
  | .wselBg2 => .wrWselBg2 eff val
  | .wselBg3 => .wrWselBg3 eff val
  | .wselBg4 => .wrWselBg4 eff val
  | .wselObj => .wrWselObj eff val
  | .wselCol => .wrWselCol eff val
  | .tm => .wrTm eff val
  | .ts => .wrTs eff val
  | .tmw => .wrTmw eff val
  | .tsw => .wrTsw eff val
  | .cgwsel => .wrCgwsel eff val
  | .cgadsub => .wrCgadsub eff val
  | .fixedcolor => .wrFixedcolor eff val
  | .interlace => .wrInterlace eff val

/-- The opcode of a header word, `w[63:56]` (R111). -/
def opField (w : Word) : BitVec 8 := w.extractLsb' 56 8

/-- The tag of a write command's header, `w[55:47]` (R111). -/
def effField (w : Word) : Tag := w.extractLsb' 47 9

/-- The upper 16-bit operand of formats V, C and R, `w[31:16]` (R111). -/
def hiField (w : Word) : BitVec 16 := w.extractLsb' 16 16

/-- The lower 16-bit operand of formats V, C, R and L, `w[15:0]` (R111). -/
def loField (w : Word) : BitVec 16 := w.extractLsb' 0 16

/-- The must-be-zero bits `w[46:32]` of formats V, C and R (R111). -/
def midZero (w : Word) : Bool := w.extractLsb' 32 15 == 0#15

/-- The payload words that follow a header: `(len + 3) div 4` after opcode 0x01, "whatever the other bits of the
header are", none after any other header (R116). -/
def payloadCount (w : Word) : Nat :=
  if opField w = 0x01#8 then ((loField w).toNat + 3) / 4 else 0

/-- The four data words of a payload word, lowest lane first: `d[4j+k] = payload_j[16k+15 : 16k]` (R116). -/
def lanes (p : Word) : List VWord :=
  [p.extractLsb' 0 16, p.extractLsb' 16 16, p.extractLsb' 32 16, p.extractLsb' 48 16]

/-- The data words of `WR_VRAM`: the first `len` lanes of its payload; the unused lanes are ignored (R116, R142;
log entry 13). -/
def payloadData (len : Nat) (payload : List Word) : List VWord := (payload.flatMap lanes).take len

/-- Why a header word is `E_DECODE` (30_encoding.md R115; 60_exceptions.md R343). -/
inductive DecodeError where
  | reservedOpcode
  | mustBeZero
  | noSuchRegister
deriving DecidableEq, Repr

/-- Format O, `WR_OAM` (R111). -/
def decodeOam (w : Word) : Except DecodeError Instr :=
  if w.extractLsb' 34 5 = 0#5 then
    .ok (.wrOam (effField w) (w.extractLsb' 39 8)
      { size  := w.getLsbD 33
        vflip := w.getLsbD 32
        hflip := w.getLsbD 31
        prio  := w.extractLsb' 29 2
        pal   := w.extractLsb' 26 3
        name  := w.getLsbD 25
        tile  := w.extractLsb' 17 8
        y     := w.extractLsb' 9 8
        x     := w.extractLsb' 0 9 })
  else .error .mustBeZero

/-- Format R, `WR_REG`: the register number selects the form (R111, R112, R115). -/
def decodeReg (w : Word) : Except DecodeError Instr :=
  if midZero w then
    match RegName.ofNumber (hiField w).toNat with
    | some r => .ok (regInstr r (effField w) (loField w))
    | none => .error .noSuchRegister
  else .error .mustBeZero

/-- One header word with its payload words (R111, R112, R115). -/
def decodeCommand (w : Word) (payload : List Word) : Except DecodeError Instr :=
  match (opField w).toNat with
  | 0x00 => if w.extractLsb' 0 56 = 0#56 then .ok .nop else .error .mustBeZero
  | 0x01 =>
    if midZero w then .ok (.wrVram (effField w) (hiField w) (payloadData (loField w).toNat payload))
    else .error .mustBeZero
  | 0x02 => if midZero w then .ok (.wrCgram (effField w) (hiField w) (loField w)) else .error .mustBeZero
  | 0x03 => decodeOam w
  | 0x04 => decodeReg w
  | 0x10 => if w.extractLsb' 16 40 = 0#40 then .ok (.renderLine (loField w)) else .error .mustBeZero
  | 0x11 => if w.extractLsb' 0 56 = 0#56 then .ok .renderFrame else .error .mustBeZero
  | 0x12 => if w.extractLsb' 0 56 = 0#56 then .ok .getFrame else .error .mustBeZero
  | _ => .error .reservedOpcode

/-- What stands next in a command stream. -/
inductive Decoded where
  /-- No header word has arrived. -/
  | nothing
  /-- A `WR_VRAM` header has arrived and its payload has not arrived whole: the command is not yet presented. -/
  | waiting
  /-- A header that is `E_DECODE`; `rest` follows it and the payload words it consumes (R116, R343). -/
  | illegal (why : DecodeError) (rest : List Word)
  /-- A command; `rest` follows it. -/
  | command (i : Instr) (rest : List Word)
deriving DecidableEq, Repr

/-- The decoder: total on any stream of words (R115, R116). -/
def decode : List Word → Decoded
  | [] => .nothing
  | w :: ws =>
    if ws.length < payloadCount w then .waiting
    else
      match decodeCommand w (ws.take (payloadCount w)) with
      | .ok i => .command i (ws.drop (payloadCount w))
      | .error e => .illegal e (ws.drop (payloadCount w))

/-! ## The encoder -/

/-- Four data words in one payload word, the first in the lowest lane (R116). -/
def packWord (a b c d : VWord) : Word := d ++ c ++ b ++ a

/-- The payload of `WR_VRAM`: four data words to a word, unused lanes 0 (R116). -/
def packPayload : List VWord → List Word
  | [] => []
  | [a] => [packWord a 0 0 0]
  | [a, b] => [packWord a b 0 0]
  | [a, b, c] => [packWord a b c 0]
  | a :: b :: c :: d :: rest => packWord a b c d :: packPayload rest

/-- A header of format V, C or R: opcode, tag, fifteen zero bits, two 16-bit operands (R111). -/
def header16 (op : BitVec 8) (eff : Tag) (hi lo : BitVec 16) : Word := op ++ eff ++ 0#15 ++ hi ++ lo

/-- A `WR_REG` header (46_register_write_commands.md R260). -/
def encodeReg (r : RegName) (eff : Tag) (val : BitVec 16) : List Word :=
  [header16 0x04#8 eff (BitVec.ofNat 16 r.number) val]

/-- A `WR_OAM` header (R111). -/
def encodeOam (eff : Tag) (idx : BitVec 8) (f : OamFields) : Word :=
  let top : BitVec 30 := 0x03#8 ++ eff ++ idx ++ 0#5
  let attr : BitVec 9 :=
    BitVec.ofBool f.size ++ BitVec.ofBool f.vflip ++ BitVec.ofBool f.hflip ++ f.prio ++ f.pal ++ BitVec.ofBool f.name
  let place : BitVec 25 := f.tile ++ f.y ++ f.x
  top ++ attr ++ place

/-- The opcode of a command (R112). -/
def opcodeOf : Instr → BitVec 8
  | .nop => 0x00#8
  | .wrVram _ _ _ => 0x01#8
  | .wrCgram _ _ _ => 0x02#8
  | .wrOam _ _ _ => 0x03#8
  | .renderLine _ => 0x10#8
  | .renderFrame => 0x11#8
  | .getFrame => 0x12#8
  | _ => 0x04#8

/-- The words of a command (R111, R112, R116). -/
def encode : Instr → List Word
  | .nop => [0x00#8 ++ 0#56]
  | .wrVram eff off data => header16 0x01#8 eff off (BitVec.ofNat 16 data.length) :: packPayload data
  | .wrCgram eff idx val => [header16 0x02#8 eff idx val]
  | .wrOam eff idx f => [encodeOam eff idx f]
  | .wrBright eff val => encodeReg .bright eff val
  | .wrBgmode eff val => encodeReg .bgmode eff val
  | .wrMosaic eff val => encodeReg .mosaic eff val
  | .wrMosaicph eff val => encodeReg .mosaicph eff val
  | .wrBg1sc eff val => encodeReg .bg1sc eff val
  | .wrBg2sc eff val => encodeReg .bg2sc eff val
  | .wrBg3sc eff val => encodeReg .bg3sc eff val
  | .wrBg4sc eff val => encodeReg .bg4sc eff val
  | .wrBg1nba eff val => encodeReg .bg1nba eff val
  | .wrBg2nba eff val => encodeReg .bg2nba eff val
  | .wrBg3nba eff val => encodeReg .bg3nba eff val
  | .wrBg4nba eff val => encodeReg .bg4nba eff val
  | .wrBg1hofs eff val => encodeReg .bg1hofs eff val
  | .wrBg2hofs eff val => encodeReg .bg2hofs eff val
  | .wrBg3hofs eff val => encodeReg .bg3hofs eff val
  | .wrBg4hofs eff val => encodeReg .bg4hofs eff val
  | .wrBg1vofs eff val => encodeReg .bg1vofs eff val
  | .wrBg2vofs eff val => encodeReg .bg2vofs eff val
  | .wrBg3vofs eff val => encodeReg .bg3vofs eff val
  | .wrBg4vofs eff val => encodeReg .bg4vofs eff val
  | .wrObsel eff val => encodeReg .obsel eff val
  | .wrM7sel eff val => encodeReg .m7sel eff val
  | .wrM7a eff val => encodeReg .m7a eff val
  | .wrM7b eff val => encodeReg .m7b eff val
  | .wrM7c eff val => encodeReg .m7c eff val
  | .wrM7d eff val => encodeReg .m7d eff val
  | .wrM7x eff val => encodeReg .m7x eff val
  | .wrM7y eff val => encodeReg .m7y eff val
  | .wrWh0 eff val => encodeReg .wh0 eff val
  | .wrWh1 eff val => encodeReg .wh1 eff val
  | .wrWh2 eff val => encodeReg .wh2 eff val
  | .wrWh3 eff val => encodeReg .wh3 eff val
  | .wrWselBg1 eff val => encodeReg .wselBg1 eff val
  | .wrWselBg2 eff val => encodeReg .wselBg2 eff val
  | .wrWselBg3 eff val => encodeReg .wselBg3 eff val
  | .wrWselBg4 eff val => encodeReg .wselBg4 eff val
  | .wrWselObj eff val => encodeReg .wselObj eff val
  | .wrWselCol eff val => encodeReg .wselCol eff val
  | .wrTm eff val => encodeReg .tm eff val
  | .wrTs eff val => encodeReg .ts eff val
  | .wrTmw eff val => encodeReg .tmw eff val
  | .wrTsw eff val => encodeReg .tsw eff val
  | .wrCgwsel eff val => encodeReg .cgwsel eff val
  | .wrCgadsub eff val => encodeReg .cgadsub eff val
  | .wrFixedcolor eff val => encodeReg .fixedcolor eff val
  | .wrInterlace eff val => encodeReg .interlace eff val
  | .renderLine line => [0x10#8 ++ 0#40 ++ line]
  | .renderFrame => [0x11#8 ++ 0#56]
  | .getFrame => [0x12#8 ++ 0#56]

/-! ## The command stream as bytes -/

/-- The eight bytes of a word, least significant first (R113). -/
def bytesOfWord (w : Word) : List Byte :=
  [w.extractLsb' 0 8, w.extractLsb' 8 8, w.extractLsb' 16 8, w.extractLsb' 24 8,
   w.extractLsb' 32 8, w.extractLsb' 40 8, w.extractLsb' 48 8, w.extractLsb' 56 8]

/-- A stream of words as bytes (R113). -/
def bytesOfWords (ws : List Word) : List Byte := ws.flatMap bytesOfWord

/-- The whole words of a stream of bytes; a tail shorter than a word is not yet a word (R113). -/
def wordsOfBytes : List Byte → List Word
  | b0 :: b1 :: b2 :: b3 :: b4 :: b5 :: b6 :: b7 :: rest =>
    (b7 ++ b6 ++ b5 ++ b4 ++ b3 ++ b2 ++ b1 ++ b0) :: wordsOfBytes rest
  | _ => []

/-- The decoder on a stream of bytes. -/
def decodeBytes (bs : List Byte) : Decoded := decode (wordsOfBytes bs)

/-! ## The host's table hook -/

/-- The words of an instruction given as one number `w` of `nbits` bits, bit 0 the least significant bit of the
first word and the bits above `nbits` zero: the header, and the payload words it calls for. -/
def tableWords (nbits w : Nat) : List Word :=
  let v := w % 2 ^ nbits
  BitVec.ofNat 64 v ::
    (List.range (payloadCount (BitVec.ofNat 64 v))).map (fun j => BitVec.ofNat 64 (v >>> (64 * (j + 1))))

/-- The instruction the decoder reads from those words, laid out as bytes in the stream's order (R113). -/
def decodeTableWord (nbits w : Nat) : Option Instr :=
  match decodeBytes (bytesOfWords (tableWords nbits w)) with
  | .command i _ => some i
  | _ => none

/-! ## The assembler: pseudo-commands and text (R118, R119) -/

/-- `VRAM_FILL off, count, d @eff` (R119). -/
def vramFill (off : BitVec 16) (count : Nat) (d : VWord) (eff : Tag) : Instr :=
  .wrVram eff off (List.replicate count d)

/-- The sprite `OAM_HIDE` writes: all fields 0 but `y` = 240 (R119). -/
def hiddenSprite : OamFields :=
  { size := false, vflip := false, hflip := false, prio := 0, pal := 0, name := false, tile := 0, y := 240, x := 0 }

/-- `OAM_HIDE i @eff` (R119). -/
def oamHide (idx : BitVec 8) (eff : Tag) : Instr := .wrOam eff idx hiddenSprite

/-- A number in the assembler's text: decimal. -/
def numText {n : Nat} (v : BitVec n) : String := toString v.toNat

/-- A one-bit operand in the assembler's text. -/
def bitText (b : Bool) : String := if b then "1" else "0"

/-- The tag in the assembler's text, `@eff` (R118). -/
def tagText (eff : Tag) : String := " @" ++ numText eff

/-- `WR_REG NAME, val @eff` (R118). -/
def regText (r : RegName) (eff : Tag) (val : BitVec 16) : String :=
  "WR_REG " ++ r.text ++ ", " ++ numText val ++ tagText eff

/-- The operands of `WR_OAM` after the index, each by name (R118). -/
def oamText (f : OamFields) : String :=
  "x=" ++ toString f.x.toInt ++ ", y=" ++ numText f.y ++ ", tile=" ++ numText f.tile ++ ", name=" ++ bitText f.name
    ++ ", pal=" ++ numText f.pal ++ ", prio=" ++ numText f.prio ++ ", hflip=" ++ bitText f.hflip
    ++ ", vflip=" ++ bitText f.vflip ++ ", size=" ++ bitText f.size

/-- A command in the assembler's syntax (R118). -/
def Instr.text : Instr → String
  | .nop => "NOP"
  | .wrVram eff off data =>
    "WR_VRAM " ++ numText off ++ ", [" ++ String.intercalate ", " (data.map numText) ++ "]" ++ tagText eff
  | .wrCgram eff idx val => "WR_CGRAM " ++ numText idx ++ ", " ++ numText val ++ tagText eff
  | .wrOam eff idx f => "WR_OAM " ++ numText idx ++ ", " ++ oamText f ++ tagText eff
  | .wrBright eff val => regText .bright eff val
  | .wrBgmode eff val => regText .bgmode eff val
  | .wrMosaic eff val => regText .mosaic eff val
  | .wrMosaicph eff val => regText .mosaicph eff val
  | .wrBg1sc eff val => regText .bg1sc eff val
  | .wrBg2sc eff val => regText .bg2sc eff val
  | .wrBg3sc eff val => regText .bg3sc eff val
  | .wrBg4sc eff val => regText .bg4sc eff val
  | .wrBg1nba eff val => regText .bg1nba eff val
  | .wrBg2nba eff val => regText .bg2nba eff val
  | .wrBg3nba eff val => regText .bg3nba eff val
  | .wrBg4nba eff val => regText .bg4nba eff val
  | .wrBg1hofs eff val => regText .bg1hofs eff val
  | .wrBg2hofs eff val => regText .bg2hofs eff val
  | .wrBg3hofs eff val => regText .bg3hofs eff val
  | .wrBg4hofs eff val => regText .bg4hofs eff val
  | .wrBg1vofs eff val => regText .bg1vofs eff val
  | .wrBg2vofs eff val => regText .bg2vofs eff val
  | .wrBg3vofs eff val => regText .bg3vofs eff val
  | .wrBg4vofs eff val => regText .bg4vofs eff val
  | .wrObsel eff val => regText .obsel eff val
  | .wrM7sel eff val => regText .m7sel eff val
  | .wrM7a eff val => regText .m7a eff val
  | .wrM7b eff val => regText .m7b eff val
  | .wrM7c eff val => regText .m7c eff val
  | .wrM7d eff val => regText .m7d eff val
  | .wrM7x eff val => regText .m7x eff val
  | .wrM7y eff val => regText .m7y eff val
  | .wrWh0 eff val => regText .wh0 eff val
  | .wrWh1 eff val => regText .wh1 eff val
  | .wrWh2 eff val => regText .wh2 eff val
  | .wrWh3 eff val => regText .wh3 eff val
  | .wrWselBg1 eff val => regText .wselBg1 eff val
  | .wrWselBg2 eff val => regText .wselBg2 eff val
  | .wrWselBg3 eff val => regText .wselBg3 eff val
  | .wrWselBg4 eff val => regText .wselBg4 eff val
  | .wrWselObj eff val => regText .wselObj eff val
  | .wrWselCol eff val => regText .wselCol eff val
  | .wrTm eff val => regText .tm eff val
  | .wrTs eff val => regText .ts eff val
  | .wrTmw eff val => regText .tmw eff val
  | .wrTsw eff val => regText .tsw eff val
  | .wrCgwsel eff val => regText .cgwsel eff val
  | .wrCgadsub eff val => regText .cgadsub eff val
  | .wrFixedcolor eff val => regText .fixedcolor eff val
  | .wrInterlace eff val => regText .interlace eff val
  | .renderLine line => "RENDER_LINE " ++ numText line
  | .renderFrame => "RENDER_FRAME"
  | .getFrame => "GET_FRAME"

end Sys2Proof
end

