-- ==== Sys2Proof/Config.lean ====
section
/-! DEFINITION. The parameters of the model (00_scope.md R6 to R9) and the three configuration tables MODEDEF,
RANK and OBJSIZE. They are plain data: a machine carries one `Config`, and no step changes it.
Only the types stand here; every value stands in Machine/Tables.lean. -/

namespace Sys2Proof

/-- What MODEDEF says of one background layer in one mode (41_background_renderer.md R152): absent, a depth, or the
Mode 7 sub-layer, which is present only when M7SEL.EXTBG is set (43_mode7.md R207). -/
inductive LayerDef where
  | absent
  | bpp2
  | bpp4
  | bpp8
  | subIfExtbg
deriving DecidableEq, Repr

/-- One row of MODEDEF: the four layers, and whether per-tile offset scroll applies to BG1 and BG2 (R152). -/
structure ModeRow where
  bg1 : LayerDef
  bg2 : LayerDef
  bg3 : LayerDef
  bg4 : LayerDef
  opt : Bool
deriving DecidableEq, Repr

/-- The ranks of one background layer in one mode: priority bit 0 and priority bit 1 (44_compositor.md R222). -/
structure BgRank where
  p0 : Nat
  p1 : Nat
deriving DecidableEq, Repr

/-- One row of RANK (R222). DESIGN CHOICE: the spec gives no rank to a (layer, priority) the row does not list; here it
is 0, so that such a candidate never wins over the backdrop (log entry 21). -/
structure RankRow where
  bg1  : BgRank
  bg2  : BgRank
  bg3  : BgRank
  bg4  : BgRank
  obj0 : Nat
  obj1 : Nat
  obj2 : Nat
  obj3 : Nat
deriving DecidableEq, Repr

/-- The table RANK with its six rows (R222). -/
structure RankTable where
  m0  : RankRow
  m1  : RankRow
  m1p : RankRow
  m2  : RankRow
  m5  : RankRow
  m7  : RankRow
deriving DecidableEq, Repr

/-- A sprite size in pixels (42_sprite_evaluator.md R183). -/
structure ObjDim where
  w : Nat
  h : Nat
deriving DecidableEq, Repr

/-- One row of OBJSIZE: the small and the large size of a preset (R183). -/
structure ObjSizeRow where
  small : ObjDim
  large : ObjDim
deriving DecidableEq, Repr

/-- The named parameters of the model: 00_scope.md R7 (`wBase`, `hLines`, `padL`, `padR`), R8 (`pitch`),
R9 (`pendqDepth`, where `none` is unbounded, and the three tables). -/
structure Config where
  wBase      : Nat
  hLines     : Nat
  padL       : Nat
  padR       : Nat
  pitch      : Nat
  pendqDepth : Option Nat
  modeDef    : List ModeRow
  rank       : RankTable
  objSize    : List ObjSizeRow
deriving DecidableEq, Repr

end Sys2Proof
end

