-- ==== Sys2Proof/Machine/Tables.lean ====
section
/-! DEFINITION. The values of the parameters: sizes, limits, the default tables MODEDEF, RANK, OBJSIZE, and the
constraints the spec puts on a configuration (00_scope.md R6 to R9; R152, R183, R222). -/

namespace Sys2Proof

/-- `SPRITE_LIMIT`, the sprite range limit of a scanline (00_scope.md R6). -/
abbrev spriteLimit : Nat := 32

/-- `TILE_LIMIT`, the tile-fetch limit of a scanline (00_scope.md R6). -/
abbrev tileLimit : Nat := 34

namespace Config

/-- `WIDTH = PAD_L + W_BASE + PAD_R` (00_scope.md R7). -/
def width (c : Config) : Nat := c.padL + c.wBase + c.padR

/-- `XMIN = −PAD_L` (00_scope.md R7). -/
def xMin (c : Config) : Int := -(c.padL : Int)

/-- `XMAX = W_BASE − 1 + PAD_R` (00_scope.md R7). -/
def xMax (c : Config) : Int := (c.wBase : Int) - 1 + (c.padR : Int)

/-- The default MODEDEF. PRESUMED: the spec marks it as general knowledge (R152, K12; log entry 2). -/
def defaultModeDef : List ModeRow := [
  ⟨.bpp2, .bpp2, .bpp2, .bpp2, false⟩,
  ⟨.bpp4, .bpp4, .bpp2, .absent, false⟩,
  ⟨.bpp4, .bpp4, .absent, .absent, true⟩,
  ⟨.bpp8, .bpp4, .absent, .absent, false⟩,
  ⟨.bpp8, .bpp2, .absent, .absent, true⟩,
  ⟨.absent, .absent, .absent, .absent, false⟩,
  ⟨.absent, .absent, .absent, .absent, false⟩,
  ⟨.bpp8, .subIfExtbg, .absent, .absent, false⟩]

/-- Row M1 of the default RANK (R222). -/
def defaultRankM1 : RankRow :=
  { bg1 := ⟨6, 9⟩, bg2 := ⟨5, 8⟩, bg3 := ⟨1, 3⟩, bg4 := ⟨0, 0⟩, obj0 := 2, obj1 := 4, obj2 := 7, obj3 := 10 }

/-- The default RANK. PRESUMED: the spec marks it as general knowledge (R222, K23; log entry 2). A 0 stands for an entry
the row does not list (log entry 21). -/
def defaultRank : RankTable where
  m0  := { bg1 := ⟨8, 11⟩, bg2 := ⟨7, 10⟩, bg3 := ⟨2, 5⟩, bg4 := ⟨1, 4⟩, obj0 := 3, obj1 := 6, obj2 := 9, obj3 := 12 }
  m1  := defaultRankM1
  m1p := { defaultRankM1 with bg3 := ⟨1, 11⟩ }
  m2  := { bg1 := ⟨3, 7⟩, bg2 := ⟨1, 5⟩, bg3 := ⟨0, 0⟩, bg4 := ⟨0, 0⟩, obj0 := 2, obj1 := 4, obj2 := 6, obj3 := 8 }
  m5  := { bg1 := ⟨0, 0⟩, bg2 := ⟨0, 0⟩, bg3 := ⟨0, 0⟩, bg4 := ⟨0, 0⟩, obj0 := 1, obj1 := 2, obj2 := 3, obj3 := 4 }
  m7  := { bg1 := ⟨3, 0⟩, bg2 := ⟨1, 5⟩, bg3 := ⟨0, 0⟩, bg4 := ⟨0, 0⟩, obj0 := 2, obj1 := 4, obj2 := 6, obj3 := 7 }

/-- The default OBJSIZE. PRESUMED: the spec marks it as general knowledge (R183, K8; log entry 2). -/
def defaultObjSize : List ObjSizeRow := [
  ⟨⟨8, 8⟩, ⟨16, 16⟩⟩,
  ⟨⟨8, 8⟩, ⟨32, 32⟩⟩,
  ⟨⟨8, 8⟩, ⟨64, 64⟩⟩,
  ⟨⟨16, 16⟩, ⟨32, 32⟩⟩,
  ⟨⟨16, 16⟩, ⟨64, 64⟩⟩,
  ⟨⟨32, 32⟩, ⟨64, 64⟩⟩,
  ⟨⟨16, 32⟩, ⟨32, 64⟩⟩,
  ⟨⟨16, 32⟩, ⟨32, 32⟩⟩]

/-- The defaults of 00_scope.md R7 to R9: 256 × 224, no padding, `PITCH` = 4·`WIDTH`, unbounded queue, default tables. -/
def default : Config where
  wBase      := 256
  hLines     := 224
  padL       := 0
  padR       := 0
  pitch      := 1024
  pendqDepth := none
  modeDef    := defaultModeDef
  rank       := defaultRank
  objSize    := defaultObjSize

end Config

/-- The ranks a row lists, one per (layer, priority) entry. -/
def RankRow.entries (r : RankRow) : List Nat :=
  [r.bg1.p0, r.bg1.p1, r.bg2.p0, r.bg2.p1, r.bg3.p0, r.bg3.p1, r.bg4.p0, r.bg4.p1, r.obj0, r.obj1, r.obj2, r.obj3]

/-- "Within one row no two entries have the same rank" (R222): the listed (non-zero, log entry 21) ranks are distinct. -/
def RankRow.distinct (r : RankRow) : Bool := decide ((r.entries.filter (fun z => z != 0)).Nodup)

/-- All six rows have distinct ranks (R222). -/
def RankTable.distinct (t : RankTable) : Bool :=
  t.m0.distinct && t.m1.distinct && t.m1p.distinct && t.m2.distinct && t.m5.distinct && t.m7.distinct

/-- "Widths and heights are multiples of 8" (R183). -/
def ObjDim.wf (d : ObjDim) : Bool := decide (d.w % 8 = 0) && decide (d.h % 8 = 0)

/-- The constraints the spec puts on its parameters: at least one scanline (R60, R61), at least one pixel column, `PITCH ≥ 4·WIDTH` (R8), eight modes
and eight presets (R32, R183), sizes that are multiples of 8 (R183) and distinct ranks in each row (R222). -/
def Config.wf (c : Config) : Bool :=
  decide (1 ≤ c.hLines) && decide (1 ≤ c.wBase) && decide (4 * c.width ≤ c.pitch)
    && decide (c.modeDef.length = 8) && decide (c.objSize.length = 8)
    && c.objSize.all (fun r => r.small.wf && r.large.wf) && c.rank.distinct

end Sys2Proof
end

