-- ==== Sys2Proof/Machine/State.lean ====
section
/-! DEFINITION. The state of the machine as plain data (10_state.md R20), what stops a step, and the state after
reset (70_reset_and_hazards.md R370 to R373). -/

namespace Sys2Proof.Machine

/-- No behaviour of this hardware is a fault: "the block has no fault mechanism" (93_implementation_defined.md;
60_exceptions.md R352). So no reason to fault exists, and nothing raises one. -/
inductive Fault
deriving DecidableEq, Repr

/-- The reasons a step can be refused by the model. A command the hardware rejects is not one of them: it takes a next
state whose response is `rej` (60_exceptions.md R341). -/
inductive Refusal where
  /-- Raised by an arm of `exec` whose instruction has no meaning yet; safe. No arm does: every command is modelled. -/
  | notModelled (mnemonic : String)
deriving DecidableEq, Repr

/-! ## Memory Store -/

/-- A sparse memory: the cells that differ from what an unlisted cell reads as, by strictly rising address. The
operations and the canonical form are in Machine/Ops.lean. -/
abbrev Cells (α : Type) := List (Nat × α)

/-- One entry of the main sprite table `OAM.LOW` (10_state.md R26). -/
structure OamLow where
  xlo   : BitVec 8
  y     : BitVec 8
  tile  : BitVec 8
  name  : Bool
  pal   : BitVec 3
  prio  : BitVec 2
  hflip : Bool
  vflip : Bool
deriving DecidableEq, Repr

/-- One entry of the secondary sprite table `OAM.HIGH` (10_state.md R26). -/
structure OamHigh where
  xhi  : Bool
  size : Bool
deriving DecidableEq, Repr

/-- The Memory Store: `VRAM` (R21), `CGRAM` (R23) and the two tables of `OAM` (R25). -/
structure Memory where
  vram    : Cells VWord
  cgram   : Cells Colour15
  oamLow  : Cells OamLow
  oamHigh : Cells OamHigh
deriving DecidableEq, Repr

/-! ## Register/State Surface -/

/-- The 46 registers, each with its own width (10_state.md R28, R30). -/
structure Regs where
  bright     : BitVec 4
  bgmode     : BitVec 4
  mosaic     : BitVec 8
  mosaicph   : BitVec 8
  bg1sc      : BitVec 9
  bg2sc      : BitVec 9
  bg3sc      : BitVec 9
  bg4sc      : BitVec 9
  bg1nba     : BitVec 4
  bg2nba     : BitVec 4
  bg3nba     : BitVec 4
  bg4nba     : BitVec 4
  bg1hofs    : BitVec 16
  bg2hofs    : BitVec 16
  bg3hofs    : BitVec 16
  bg4hofs    : BitVec 16
  bg1vofs    : BitVec 16
  bg2vofs    : BitVec 16
  bg3vofs    : BitVec 16
  bg4vofs    : BitVec 16
  obsel      : BitVec 8
  m7sel      : BitVec 3
  m7a        : BitVec 16
  m7b        : BitVec 16
  m7c        : BitVec 16
  m7d        : BitVec 16
  m7x        : BitVec 16
  m7y        : BitVec 16
  wh0        : BitVec 8
  wh1        : BitVec 8
  wh2        : BitVec 8
  wh3        : BitVec 8
  wselBg1    : BitVec 6
  wselBg2    : BitVec 6
  wselBg3    : BitVec 6
  wselBg4    : BitVec 6
  wselObj    : BitVec 6
  wselCol    : BitVec 6
  tm         : BitVec 5
  ts         : BitVec 5
  tmw        : BitVec 5
  tsw        : BitVec 5
  cgwsel     : BitVec 8
  cgadsub    : BitVec 8
  fixedcolor : BitVec 15
  interlace  : BitVec 1
deriving DecidableEq, Repr

/-! ## Sequencer and queue -/

/-- The sequencer (10_state.md R60). -/
inductive Seq where
  | idle
  | scanlineInProgress (n : Nat)
  | frameComplete
deriving DecidableEq, Repr

/-- The state change a write command describes, with the operand values captured when the command is issued
(40_memory_write_commands.md R140). -/
inductive WriteAct where
  | vram (off : Nat) (data : List VWord)
  | cgram (idx : Nat) (val : Colour15)
  | oam (idx : Nat) (low : OamLow) (high : OamHigh)
  | reg (r : RegName) (val : BitVec 16)
deriving DecidableEq, Repr

/-- One entry of `PENDING`: an accepted write with its tag (10_state.md R62). -/
structure PendingWrite where
  eff : Tag
  act : WriteAct
deriving DecidableEq, Repr

/-! ## Scratch buffers and frame buffer -/

/-- A background layer (00_scope.md R16). -/
inductive Bg where
  | bg1 | bg2 | bg3 | bg4
deriving DecidableEq, Repr

/-- The source-layer tag of a cell (10_state.md R64; 00_scope.md R16). -/
inductive Src where
  | bg (l : Bg)
  | obj
  | backdrop
deriving DecidableEq, Repr

/-- A sprite pixel of `OBJBUF` (10_state.md R63). -/
structure ObjPixel where
  cidx  : BitVec 8
  prio  : BitVec 2
  pal47 : Bool
deriving DecidableEq, Repr

/-- A cell of `MAINBUF` or `SUBBUF` (10_state.md R64). -/
structure ScreenCell where
  z      : Nat
  src    : Src
  cidx   : BitVec 8
  direct : Bool
  dcol   : Colour15
  pal47  : Bool
deriving DecidableEq, Repr

/-- A pixel of the frame buffer: R, G, B, A (00_scope.md R8). -/
structure Pixel where
  r : Byte
  g : Byte
  b : Byte
  a : Byte
deriving DecidableEq, Repr

/-- A row of the frame buffer, by column. -/
abbrev Row := List Pixel

/-- The frame buffer by row; an unlisted row reads as a row of zero pixels (10_state.md R65; log entry 3). -/
abbrev FrameBuf := Cells Row

/-! ## Responses -/

/-- The rejection codes (60_exceptions.md R342). -/
inductive RejCode where
  | eDecode
  | eRange
  | eSeq
  | eTag
  | eFull
deriving DecidableEq, Repr

/-- What a command returns (30_encoding.md R117). -/
inductive Response where
  | ok
  | okRow (row : Row)
  | okFrame (fb : FrameBuf) (width height pitch : Nat)
  | rej (code : RejCode)
deriving DecidableEq, Repr

/-- The whole machine. `mem` to `fb` is the state of 10_state.md R20. `cfg` holds the parameters of 00_scope.md R7 to
R9, which no step changes (log entry 1). `stream` holds the command words `HOST` has put at the port and the core has
not taken (log entry 5), and `resp` the response to the latest command (log entry 6): these three are the model's own
fields. -/
structure State where
  cfg     : Config
  mem     : Memory
  regs    : Regs
  seq     : Seq
  pending : List PendingWrite
  objbuf  : List (Option ObjPixel)
  mainbuf : List ScreenCell
  subbuf  : List ScreenCell
  fb      : FrameBuf
  stream  : List Word
  resp    : Option Response
deriving DecidableEq, Repr

/-- What a scanline's pixels are a function of, together with its number: the parameters, the Memory Store and the
registers (47_render_commands.md R330; 10_state.md R67). It is read off the state, not a part of it. -/
structure Scene where
  cfg  : Config
  mem  : Memory
  regs : Regs
deriving DecidableEq, Repr

/-- Every register is 0 (70_reset_and_hazards.md R371). -/
def Regs.zero : Regs where
  bright := 0
  bgmode := 0
  mosaic := 0
  mosaicph := 0
  bg1sc := 0
  bg2sc := 0
  bg3sc := 0
  bg4sc := 0
  bg1nba := 0
  bg2nba := 0
  bg3nba := 0
  bg4nba := 0
  bg1hofs := 0
  bg2hofs := 0
  bg3hofs := 0
  bg4hofs := 0
  bg1vofs := 0
  bg2vofs := 0
  bg3vofs := 0
  bg4vofs := 0
  obsel := 0
  m7sel := 0
  m7a := 0
  m7b := 0
  m7c := 0
  m7d := 0
  m7x := 0
  m7y := 0
  wh0 := 0
  wh1 := 0
  wh2 := 0
  wh3 := 0
  wselBg1 := 0
  wselBg2 := 0
  wselBg3 := 0
  wselBg4 := 0
  wselObj := 0
  wselCol := 0
  tm := 0
  ts := 0
  tmw := 0
  tsw := 0
  cgwsel := 0
  cgadsub := 0
  fixedcolor := 0
  interlace := 0

/-- Memories with nothing listed. DESIGN CHOICE: an unlisted cell reads as 0 (log entry 3). -/
def Memory.blank : Memory where
  vram := []
  cgram := []
  oamLow := []
  oamHigh := []

/-- The cell a screen buffer holds before any layer is offered. DESIGN CHOICE for the unobservable reset contents of
`MAINBUF` and `SUBBUF` (R373; log entry 4). -/
def ScreenCell.blank : ScreenCell :=
  { z := 0, src := .backdrop, cidx := 0, direct := false, dcol := 0, pal47 := false }

/-- The state right after reset, for parameters `c` and initial memories `m` and `fb`, the arguments R372 asks a
model to take: every register 0, `SEQ` = `Idle`, `PENDING` empty (R371); no command at the port, no response yet. -/
def State.resetWith (c : Config) (m : Memory) (fb : FrameBuf) : State where
  cfg := c
  mem := m
  regs := Regs.zero
  seq := .idle
  pending := []
  objbuf := List.replicate c.width none
  mainbuf := List.replicate c.width ScreenCell.blank
  subbuf := List.replicate c.width ScreenCell.blank
  fb := fb
  stream := []
  resp := none

/-- The state right after reset with the default parameters and `INIT_MEM` = zero (R372: "a harness may choose
`INIT_MEM` = zero"). DESIGN CHOICE, unsafe (log entry 3). -/
def State.reset : State := State.resetWith Config.default Memory.blank []

end Sys2Proof.Machine
end

