-- ==== Sys2Proof/Machine/Ops.lean ====
section
/-! DEFINITION. The shared operations: sparse memories in canonical form, the register file, the sequencer's `NEXT`,
responding and rejecting, the commit model of writes (20_memory.md R94 to R96), the frame buffer, byte images, and
taking the next command from the port. -/

namespace Sys2Proof.Machine

/-! ## Sparse memories

A cell that is not listed reads as `d`. The canonical form: addresses strictly rising, below the space's size, and no
entry equal to `d`; so equal memories are equal lists. -/

/-- Reads one cell (00_scope.md R13: every access moves exactly one cell). -/
def readCell {α : Type} (d : α) : Cells α → Nat → α
  | [], _ => d
  | (b, u) :: m, a => if b = a then u else readCell d m a

/-- Lists `(a, v)` before the first greater address. -/
def insertCell {α : Type} (a : Nat) (v : α) : Cells α → Cells α
  | [] => [(a, v)]
  | (b, u) :: m => if a < b then (a, v) :: (b, u) :: m else (b, u) :: insertCell a v m

/-- The memory without its entry for `a`. -/
def eraseCell {α : Type} (a : Nat) (m : Cells α) : Cells α := m.filter (fun e => e.1 != a)

/-- Writes one cell; writing the value an unlisted cell reads as removes the entry. -/
def writeCell {α : Type} [DecidableEq α] (d : α) (m : Cells α) (a : Nat) (v : α) : Cells α :=
  if v = d then eraseCell a m else insertCell a v (eraseCell a m)

/-- Every address of the list is at least `lo` and the addresses rise strictly. -/
def risingFrom {α : Type} (lo : Nat) : Cells α → Bool
  | [] => true
  | (b, _) :: m => decide (lo ≤ b) && risingFrom (b + 1) m

/-- The canonical form of a sparse memory of `size` cells. -/
def cellsWf {α : Type} [DecidableEq α] (d : α) (size : Nat) (m : Cells α) : Bool :=
  risingFrom 0 m && m.all (fun e => decide (e.1 < size) && decide (e.2 ≠ d))

/-! ## Memory Store -/

/-- Number of VRAM words (00_scope.md R6). -/
abbrev vramSize : Nat := 32768

/-- Number of CGRAM entries (00_scope.md R6). -/
abbrev cgramSize : Nat := 256

/-- Number of OAM entries (00_scope.md R6). -/
abbrev oamSize : Nat := 128

/-- What an unlisted `OAM.LOW` entry reads as: all fields 0 (DESIGN CHOICE, log entry 3). -/
def blankLow : OamLow :=
  { xlo := 0, y := 0, tile := 0, name := false, pal := 0, prio := 0, hflip := false, vflip := false }

/-- What an unlisted `OAM.HIGH` entry reads as: both fields 0 (DESIGN CHOICE, log entry 3). -/
def blankHigh : OamHigh := { xhi := false, size := false }

/-- `VRAM[a]`; an unlisted word reads as 0 (DESIGN CHOICE, log entry 3). -/
def readVram (m : Memory) (a : Nat) : VWord := readCell 0 m.vram a

/-- `CGRAM[i]`; an unlisted entry reads as 0 (DESIGN CHOICE, log entry 3). -/
def readCgram (m : Memory) (i : Nat) : Colour15 := readCell 0 m.cgram i

/-- `OAM.LOW[i]` (10_state.md R26). -/
def readLow (m : Memory) (i : Nat) : OamLow := readCell blankLow m.oamLow i

/-- `OAM.HIGH[i]` (10_state.md R26). -/
def readHigh (m : Memory) (i : Nat) : OamHigh := readCell blankHigh m.oamHigh i

/-- `VRAM[a + k] <- d[k]` for each data word (40_memory_write_commands.md R142). -/
def writeBlock (v : Cells VWord) (a : Nat) : List VWord → Cells VWord
  | [] => v
  | d :: ds => writeBlock (writeCell 0 v a d) (a + 1) ds

/-- The bulk write of `WR_VRAM` (R142). -/
def writeVram (m : Memory) (off : Nat) (data : List VWord) : Memory := { m with vram := writeBlock m.vram off data }

/-- `CGRAM[idx] <- val` (R143). -/
def writeCgram (m : Memory) (idx : Nat) (val : Colour15) : Memory := { m with cgram := writeCell 0 m.cgram idx val }

/-- Both tables of one sprite entry, always together (R144). -/
def writeOam (m : Memory) (idx : Nat) (low : OamLow) (high : OamHigh) : Memory :=
  { m with oamLow := writeCell blankLow m.oamLow idx low, oamHigh := writeCell blankHigh m.oamHigh idx high }

/-- The canonical form of the Memory Store. -/
def Memory.wf (m : Memory) : Bool :=
  cellsWf 0 vramSize m.vram && cellsWf 0 cgramSize m.cgram
    && cellsWf blankLow oamSize m.oamLow && cellsWf blankHigh oamSize m.oamHigh

/-! ## Register file -/

/-- `reg[NAME]`, as an unsigned value in 16 bits (00_scope.md R13). -/
def getReg (g : Regs) (r : RegName) : BitVec 16 :=
  match r with
  | .bright => g.bright.setWidth 16
  | .bgmode => g.bgmode.setWidth 16
  | .mosaic => g.mosaic.setWidth 16
  | .mosaicph => g.mosaicph.setWidth 16
  | .bg1sc => g.bg1sc.setWidth 16
  | .bg2sc => g.bg2sc.setWidth 16
  | .bg3sc => g.bg3sc.setWidth 16
  | .bg4sc => g.bg4sc.setWidth 16
  | .bg1nba => g.bg1nba.setWidth 16
  | .bg2nba => g.bg2nba.setWidth 16
  | .bg3nba => g.bg3nba.setWidth 16
  | .bg4nba => g.bg4nba.setWidth 16
  | .bg1hofs => g.bg1hofs.setWidth 16
  | .bg2hofs => g.bg2hofs.setWidth 16
  | .bg3hofs => g.bg3hofs.setWidth 16
  | .bg4hofs => g.bg4hofs.setWidth 16
  | .bg1vofs => g.bg1vofs.setWidth 16
  | .bg2vofs => g.bg2vofs.setWidth 16
  | .bg3vofs => g.bg3vofs.setWidth 16
  | .bg4vofs => g.bg4vofs.setWidth 16
  | .obsel => g.obsel.setWidth 16
  | .m7sel => g.m7sel.setWidth 16
  | .m7a => g.m7a.setWidth 16
  | .m7b => g.m7b.setWidth 16
  | .m7c => g.m7c.setWidth 16
  | .m7d => g.m7d.setWidth 16
  | .m7x => g.m7x.setWidth 16
  | .m7y => g.m7y.setWidth 16
  | .wh0 => g.wh0.setWidth 16
  | .wh1 => g.wh1.setWidth 16
  | .wh2 => g.wh2.setWidth 16
  | .wh3 => g.wh3.setWidth 16
  | .wselBg1 => g.wselBg1.setWidth 16
  | .wselBg2 => g.wselBg2.setWidth 16
  | .wselBg3 => g.wselBg3.setWidth 16
  | .wselBg4 => g.wselBg4.setWidth 16
  | .wselObj => g.wselObj.setWidth 16
  | .wselCol => g.wselCol.setWidth 16
  | .tm => g.tm.setWidth 16
  | .ts => g.ts.setWidth 16
  | .tmw => g.tmw.setWidth 16
  | .tsw => g.tsw.setWidth 16
  | .cgwsel => g.cgwsel.setWidth 16
  | .cgadsub => g.cgadsub.setWidth 16
  | .fixedcolor => g.fixedcolor.setWidth 16
  | .interlace => g.interlace.setWidth 16

/-- The width of a register (10_state.md R30). -/
def regWidth (r : RegName) : Nat :=
  match r with
  | .bright => 4
  | .bgmode => 4
  | .mosaic => 8
  | .mosaicph => 8
  | .bg1sc => 9
  | .bg2sc => 9
  | .bg3sc => 9
  | .bg4sc => 9
  | .bg1nba => 4
  | .bg2nba => 4
  | .bg3nba => 4
  | .bg4nba => 4
  | .bg1hofs => 16
  | .bg2hofs => 16
  | .bg3hofs => 16
  | .bg4hofs => 16
  | .bg1vofs => 16
  | .bg2vofs => 16
  | .bg3vofs => 16
  | .bg4vofs => 16
  | .obsel => 8
  | .m7sel => 3
  | .m7a => 16
  | .m7b => 16
  | .m7c => 16
  | .m7d => 16
  | .m7x => 16
  | .m7y => 16
  | .wh0 => 8
  | .wh1 => 8
  | .wh2 => 8
  | .wh3 => 8
  | .wselBg1 => 6
  | .wselBg2 => 6
  | .wselBg3 => 6
  | .wselBg4 => 6
  | .wselObj => 6
  | .wselCol => 6
  | .tm => 5
  | .ts => 5
  | .tmw => 5
  | .tsw => 5
  | .cgwsel => 8
  | .cgadsub => 8
  | .fixedcolor => 15
  | .interlace => 1

/-- `reg[NAME] <- val[width-1 : 0]`: the whole register is replaced and the bits above its width are discarded
(46_register_write_commands.md R260, R261). -/
def setReg (g : Regs) (r : RegName) (val : BitVec 16) : Regs :=
  match r with
  | .bright => { g with bright := val.setWidth 4 }
  | .bgmode => { g with bgmode := val.setWidth 4 }
  | .mosaic => { g with mosaic := val.setWidth 8 }
  | .mosaicph => { g with mosaicph := val.setWidth 8 }
  | .bg1sc => { g with bg1sc := val.setWidth 9 }
  | .bg2sc => { g with bg2sc := val.setWidth 9 }
  | .bg3sc => { g with bg3sc := val.setWidth 9 }
  | .bg4sc => { g with bg4sc := val.setWidth 9 }
  | .bg1nba => { g with bg1nba := val.setWidth 4 }
  | .bg2nba => { g with bg2nba := val.setWidth 4 }
  | .bg3nba => { g with bg3nba := val.setWidth 4 }
  | .bg4nba => { g with bg4nba := val.setWidth 4 }
  | .bg1hofs => { g with bg1hofs := val.setWidth 16 }
  | .bg2hofs => { g with bg2hofs := val.setWidth 16 }
  | .bg3hofs => { g with bg3hofs := val.setWidth 16 }
  | .bg4hofs => { g with bg4hofs := val.setWidth 16 }
  | .bg1vofs => { g with bg1vofs := val.setWidth 16 }
  | .bg2vofs => { g with bg2vofs := val.setWidth 16 }
  | .bg3vofs => { g with bg3vofs := val.setWidth 16 }
  | .bg4vofs => { g with bg4vofs := val.setWidth 16 }
  | .obsel => { g with obsel := val.setWidth 8 }
  | .m7sel => { g with m7sel := val.setWidth 3 }
  | .m7a => { g with m7a := val.setWidth 16 }
  | .m7b => { g with m7b := val.setWidth 16 }
  | .m7c => { g with m7c := val.setWidth 16 }
  | .m7d => { g with m7d := val.setWidth 16 }
  | .m7x => { g with m7x := val.setWidth 16 }
  | .m7y => { g with m7y := val.setWidth 16 }
  | .wh0 => { g with wh0 := val.setWidth 8 }
  | .wh1 => { g with wh1 := val.setWidth 8 }
  | .wh2 => { g with wh2 := val.setWidth 8 }
  | .wh3 => { g with wh3 := val.setWidth 8 }
  | .wselBg1 => { g with wselBg1 := val.setWidth 6 }
  | .wselBg2 => { g with wselBg2 := val.setWidth 6 }
  | .wselBg3 => { g with wselBg3 := val.setWidth 6 }
  | .wselBg4 => { g with wselBg4 := val.setWidth 6 }
  | .wselObj => { g with wselObj := val.setWidth 6 }
  | .wselCol => { g with wselCol := val.setWidth 6 }
  | .tm => { g with tm := val.setWidth 5 }
  | .ts => { g with ts := val.setWidth 5 }
  | .tmw => { g with tmw := val.setWidth 5 }
  | .tsw => { g with tsw := val.setWidth 5 }
  | .cgwsel => { g with cgwsel := val.setWidth 8 }
  | .cgadsub => { g with cgadsub := val.setWidth 8 }
  | .fixedcolor => { g with fixedcolor := val.setWidth 15 }
  | .interlace => { g with interlace := val.setWidth 1 }

/-! ## Updates of one part of the state -/

/-- Replaces the Memory Store. -/
def State.withMem (s : State) (m : Memory) : State := { s with mem := m }

/-- Replaces the register file. -/
def State.withRegs (s : State) (g : Regs) : State := { s with regs := g }

/-- `SEQ <- q` (00_scope.md R13). -/
def State.withSeq (s : State) (q : Seq) : State := { s with seq := q }

/-- Replaces `PENDING`. -/
def State.withPending (s : State) (p : List PendingWrite) : State := { s with pending := p }

/-- Replaces the three scratch buffers, all of them at once (47_render_commands.md R323). -/
def State.withScratch (s : State) (o : List (Option ObjPixel)) (m b : List ScreenCell) : State :=
  { s with objbuf := o, mainbuf := m, subbuf := b }

/-- Replaces the frame buffer. -/
def State.withFb (s : State) (f : FrameBuf) : State := { s with fb := f }

/-- Replaces the words at the command port. -/
def State.withStream (s : State) (ws : List Word) : State := { s with stream := ws }

/-- The scene a render command reads (47_render_commands.md R322). -/
def State.scene (s : State) : Scene := { cfg := s.cfg, mem := s.mem, regs := s.regs }

/-! ## Sequencer, responses, rejection -/

/-- `NEXT` (10_state.md R61). -/
def Seq.next : Seq → Nat
  | .idle => 0
  | .scanlineInProgress n => n + 1
  | .frameComplete => 0

/-- `NEXT` of a state. -/
def State.next (s : State) : Nat := s.seq.next

/-- `respond(v)`: the command ends and `v` is its response (00_scope.md R13; 30_encoding.md R117). -/
def respond (s : State) (v : Response) : State := { s with resp := some v }

/-- `reject(E_X)`: the hardware's only exception. The response is `REJ(code)` and no state changes; control goes
nowhere and nothing is saved, so there is no return from it (60_exceptions.md R341, R349). -/
def reject (s : State) (code : RejCode) : State := respond s (.rej code)

/-- The number of a rejection code (60_exceptions.md R342). -/
def RejCode.number : RejCode → Nat
  | .eDecode => 1
  | .eRange => 2
  | .eSeq => 3
  | .eTag => 4
  | .eFull => 5

/-! ## The commit model of writes -/

/-- Performs the state change of a write command (40_memory_write_commands.md R142 to R144; R260). -/
def applyAct (a : WriteAct) (s : State) : State :=
  match a with
  | .vram off data => s.withMem (writeVram s.mem off data)
  | .cgram idx val => s.withMem (writeCgram s.mem idx val)
  | .oam idx low high => s.withMem (writeOam s.mem idx low high)
  | .reg r val => s.withRegs (setReg s.regs r val)

/-- Performs several state changes, first to last. -/
def applyActs : List WriteAct → State → State
  | [], s => s
  | a :: as, s => applyActs as (applyAct a s)

/-- `PENDING` holds `PENDQ_DEPTH` entries, or more in a state no run reaches (10_state.md R62; 60_exceptions.md R347; log
entry 11). -/
def queueFull (s : State) : Bool :=
  match s.cfg.pendqDepth with
  | none => false
  | some d => decide (d ≤ s.pending.length)

/-- `AcceptWrite(eff, act)` (40_memory_write_commands.md R140; 20_memory.md R94, R95). -/
def acceptWrite (eff : Tag) (act : WriteAct) (s : State) : State :=
  if eff.toNat < s.next ∨ s.cfg.hLines ≤ eff.toNat then reject s .eTag
  else if eff.toNat = s.next then respond (applyAct act s) .ok
  else if queueFull s then reject s .eFull
  else respond (s.withPending (s.pending ++ [{ eff := eff, act := act }])) .ok

/-- The acts of the entries of `PENDING` with tag `n`, in issue order. -/
def dueActs (n : Nat) (p : List PendingWrite) : List WriteAct :=
  (p.filter (fun e => e.eff.toNat == n)).map PendingWrite.act

/-- The entries of `PENDING` that stay queued at the boundary before scanline `n`. -/
def stillQueued (n : Nat) (p : List PendingWrite) : List PendingWrite := p.filter (fun e => e.eff.toNat != n)

/-- The commit point before scanline `n`: every entry with `eff = n` is removed and applied, in issue order
(20_memory.md R96; 47_render_commands.md R321). -/
def commit (n : Nat) (s : State) : State :=
  applyActs (dueActs n s.pending) (s.withPending (stillQueued n s.pending))

/-! ## Frame buffer and byte images -/

/-- What an unlisted pixel reads as (DESIGN CHOICE, log entry 3). -/
def blankPixel : Pixel := { r := 0, g := 0, b := 0, a := 0 }

/-- What an unlisted row of the frame buffer reads as. -/
def blankRow (c : Config) : Row := List.replicate c.width blankPixel

/-- `FB[y][0 .. WIDTH-1]` (10_state.md R65). -/
def fbRow (c : Config) (fb : FrameBuf) (y : Nat) : Row := readCell (blankRow c) fb y

/-- `FB[y][c]` (10_state.md R65). -/
def fbPixel (cfg : Config) (fb : FrameBuf) (y c : Nat) : Pixel := (fbRow cfg fb y).getD c blankPixel

/-- Replaces row `y`, every cell of it (47_render_commands.md R323). -/
def writeRow (c : Config) (fb : FrameBuf) (y : Nat) (row : Row) : FrameBuf := writeCell (blankRow c) fb y row

/-- The canonical form of the frame buffer: rows below `H_LINES`, each of `WIDTH` pixels, none of them the row an
unlisted row reads as. -/
def fbWf (c : Config) (fb : FrameBuf) : Bool :=
  cellsWf (blankRow c) c.hLines fb && fb.all (fun e => decide (e.2.length = c.width))

/-- Byte `k` of a 16-bit cell laid out in bytes: 0 the low byte, 1 the high byte (20_memory.md R82). -/
def cellByte (v : BitVec 16) (k : Nat) : Byte := if k % 2 = 0 then v.extractLsb' 0 8 else v.extractLsb' 8 8

/-- Byte `k` of VRAM's image in the snapshot's "opaque byte range" (20_memory.md R82). -/
def vramByte (m : Memory) (k : Nat) : Byte := cellByte (readVram m (k / 2)) k

/-- Byte `k` of CGRAM's image (20_memory.md R82). An entry has 15 bits and the rule gives no value for bit 7 of its high
byte: the entry is zero-extended, so that bit is 0 (DESIGN CHOICE, log entry 20). -/
def cgramByte (m : Memory) (k : Nat) : Byte := cellByte ((readCgram m (k / 2)).setWidth 16) k

/-- Byte `k` of a pixel: R, G, B, A at increasing addresses (00_scope.md R8). -/
def pixelByte (p : Pixel) (k : Nat) : Byte :=
  match k with
  | 0 => p.r
  | 1 => p.g
  | 2 => p.b
  | _ => p.a

/-- The byte at offset `k` of the frame buffer, rows `PITCH` bytes apart; `none` for a byte of the pitch padding,
which the core never writes and the model does not represent (00_scope.md R8; log entry 12). -/
def frameByte (c : Config) (fb : FrameBuf) (k : Nat) : Option Byte :=
  if k % c.pitch < 4 * c.width then some (pixelByte (fbPixel c fb (k / c.pitch) (k % c.pitch / 4)) (k % c.pitch % 4))
  else none

/-- The response `OK_FRAME(FB, WIDTH, H_LINES, PITCH)`, by value (30_encoding.md R117; 47_render_commands.md R329). -/
def frameResponse (s : State) : Response := .okFrame s.fb s.cfg.width s.cfg.hLines s.cfg.pitch

/-! ## The command port -/

/-- `HOST` puts words at the command port, after those that stand there (00_scope.md R12). -/
def State.present (s : State) (ws : List Word) : State := s.withStream (s.stream ++ ws)

/-- What the core finds at the port. -/
inductive Fetched where
  /-- No whole command has been presented: the core is idle (60_exceptions.md R364). -/
  | none
  /-- A header that is `E_DECODE`; the state has its words taken from the port. -/
  | illegal (s : State)
  /-- A command; the state has its words taken from the port. -/
  | command (i : Instr) (s : State)
deriving DecidableEq, Repr

/-- Takes the next command from the port: its header and the payload words it consumes (30_encoding.md R116). -/
def fetch (s : State) : Fetched :=
  match decode s.stream with
  | .nothing => .none
  | .waiting => .none
  | .illegal _ rest => .illegal (s.withStream rest)
  | .command i rest => .command i (s.withStream rest)

end Sys2Proof.Machine
end

