-- ==== Sys2Proof/Machine/MemoryWrites.lean ====
section
/-! DEFINITION. The meanings of `NOP`, `WR_VRAM`, `WR_CGRAM` and `WR_OAM` (40_memory_write_commands.md). The checks
come in the order of 60_exceptions.md R348: range, then tag, then queue space; decoding came before. -/

namespace Sys2Proof.Machine

/-- `NOP`: answers `OK` and changes nothing (R141). -/
def execNop (s : State) : Host.Outcome State Fault Refusal := .next (respond s .ok)

/-- `WR_VRAM off, data @eff` (R142). -/
def execWrVram (eff : Tag) (off : BitVec 16) (data : List VWord) (s : State) : Host.Outcome State Fault Refusal :=
  if vramSize < off.toNat + data.length then .next (reject s .eRange)
  else .next (acceptWrite eff (.vram off.toNat data) s)

/-- `WR_CGRAM idx, val @eff`: bit 15 of `val` is discarded (R143; 30_encoding.md R127). -/
def execWrCgram (eff : Tag) (idx val : BitVec 16) (s : State) : Host.Outcome State Fault Refusal :=
  if cgramSize ≤ idx.toNat then .next (reject s .eRange)
  else .next (acceptWrite eff (.cgram idx.toNat (val.extractLsb' 0 15)) s)

/-- The main-table entry that `WR_OAM` writes (R144). -/
def oamLowOf (f : OamFields) : OamLow :=
  { xlo := f.x.extractLsb' 0 8, y := f.y, tile := f.tile, name := f.name, pal := f.pal, prio := f.prio,
    hflip := f.hflip, vflip := f.vflip }

/-- The secondary-table entry that `WR_OAM` writes (R144). -/
def oamHighOf (f : OamFields) : OamHigh := { xhi := f.x.getLsbD 8, size := f.size }

/-- `WR_OAM idx, fields @eff`: both tables of the entry (R144). -/
def execWrOam (eff : Tag) (idx : BitVec 8) (f : OamFields) (s : State) : Host.Outcome State Fault Refusal :=
  if oamSize ≤ idx.toNat then .next (reject s .eRange)
  else .next (acceptWrite eff (.oam idx.toNat (oamLowOf f) (oamHighOf f)) s)

end Sys2Proof.Machine
end

