-- ==== Sys2Proof/Machine/RegisterWrites.lean ====
section
/-! DEFINITION. The meanings of `WR_REG`, one for each register (46_register_write_commands.md). The register number
was checked by the decoder, so a form raises `E_TAG` and `E_FULL` only (R260). -/

namespace Sys2Proof.Machine

/-- `WR_REG NAME, val @eff`: `AcceptWrite` of the whole register's new value; the bits of `val` above its width are
discarded when it is stored (R260, R261). -/
def execWrReg (r : RegName) (eff : Tag) (val : BitVec 16) (s : State) : Host.Outcome State Fault Refusal :=
  .next (acceptWrite eff (.reg r val) s)

/-- `WR_REG.BRIGHT`: writes the brightness level (R263). -/
def execWrBright (eff : Tag) (val : BitVec 16) (s : State) : Host.Outcome State Fault Refusal :=
  execWrReg .bright eff val s

/-- `WR_REG.BGMODE`: writes the background mode and the mode-1 BG3 priority bit (R264). -/
def execWrBgmode (eff : Tag) (val : BitVec 16) (s : State) : Host.Outcome State Fault Refusal :=
  execWrReg .bgmode eff val s

/-- `WR_REG.MOSAIC`: writes the mosaic enables (bits 3:0) and size (bits 7:4) (R265). -/
def execWrMosaic (eff : Tag) (val : BitVec 16) (s : State) : Host.Outcome State Fault Refusal :=
  execWrReg .mosaic eff val s

/-- `WR_REG.MOSAICPH`: writes the mosaic phase (R266). -/
def execWrMosaicph (eff : Tag) (val : BitVec 16) (s : State) : Host.Outcome State Fault Refusal :=
  execWrReg .mosaicph eff val s

/-- `WR_REG.BG1SC`: writes BG1's tilemap base, tilemap size and tile size (R267). -/
def execWrBg1sc (eff : Tag) (val : BitVec 16) (s : State) : Host.Outcome State Fault Refusal :=
  execWrReg .bg1sc eff val s

/-- `WR_REG.BG2SC`: writes BG2's tilemap base, tilemap size and tile size (R268). -/
def execWrBg2sc (eff : Tag) (val : BitVec 16) (s : State) : Host.Outcome State Fault Refusal :=
  execWrReg .bg2sc eff val s

/-- `WR_REG.BG3SC`: writes BG3's tilemap base, tilemap size and tile size (R269). -/
def execWrBg3sc (eff : Tag) (val : BitVec 16) (s : State) : Host.Outcome State Fault Refusal :=
  execWrReg .bg3sc eff val s

/-- `WR_REG.BG4SC`: writes BG4's tilemap base, tilemap size and tile size (R270). -/
def execWrBg4sc (eff : Tag) (val : BitVec 16) (s : State) : Host.Outcome State Fault Refusal :=
  execWrReg .bg4sc eff val s

/-- `WR_REG.BG1NBA`: writes BG1's tile bitmap base (R271). -/
def execWrBg1nba (eff : Tag) (val : BitVec 16) (s : State) : Host.Outcome State Fault Refusal :=
  execWrReg .bg1nba eff val s

/-- `WR_REG.BG2NBA`: writes BG2's tile bitmap base (R272). -/
def execWrBg2nba (eff : Tag) (val : BitVec 16) (s : State) : Host.Outcome State Fault Refusal :=
  execWrReg .bg2nba eff val s

/-- `WR_REG.BG3NBA`: writes BG3's tile bitmap base (R273). -/
def execWrBg3nba (eff : Tag) (val : BitVec 16) (s : State) : Host.Outcome State Fault Refusal :=
  execWrReg .bg3nba eff val s

/-- `WR_REG.BG4NBA`: writes BG4's tile bitmap base (R274). -/
def execWrBg4nba (eff : Tag) (val : BitVec 16) (s : State) : Host.Outcome State Fault Refusal :=
  execWrReg .bg4nba eff val s

/-- `WR_REG.BG1HOFS`: writes BG1's horizontal scroll (R275). -/
def execWrBg1hofs (eff : Tag) (val : BitVec 16) (s : State) : Host.Outcome State Fault Refusal :=
  execWrReg .bg1hofs eff val s

/-- `WR_REG.BG2HOFS`: writes BG2's horizontal scroll (R276). -/
def execWrBg2hofs (eff : Tag) (val : BitVec 16) (s : State) : Host.Outcome State Fault Refusal :=
  execWrReg .bg2hofs eff val s

/-- `WR_REG.BG3HOFS`: writes BG3's horizontal scroll (R277). -/
def execWrBg3hofs (eff : Tag) (val : BitVec 16) (s : State) : Host.Outcome State Fault Refusal :=
  execWrReg .bg3hofs eff val s

/-- `WR_REG.BG4HOFS`: writes BG4's horizontal scroll (R278). -/
def execWrBg4hofs (eff : Tag) (val : BitVec 16) (s : State) : Host.Outcome State Fault Refusal :=
  execWrReg .bg4hofs eff val s

/-- `WR_REG.BG1VOFS`: writes BG1's vertical scroll (R279). -/
def execWrBg1vofs (eff : Tag) (val : BitVec 16) (s : State) : Host.Outcome State Fault Refusal :=
  execWrReg .bg1vofs eff val s

/-- `WR_REG.BG2VOFS`: writes BG2's vertical scroll (R280). -/
def execWrBg2vofs (eff : Tag) (val : BitVec 16) (s : State) : Host.Outcome State Fault Refusal :=
  execWrReg .bg2vofs eff val s

/-- `WR_REG.BG3VOFS`: writes BG3's vertical scroll (R281). -/
def execWrBg3vofs (eff : Tag) (val : BitVec 16) (s : State) : Host.Outcome State Fault Refusal :=
  execWrReg .bg3vofs eff val s

/-- `WR_REG.BG4VOFS`: writes BG4's vertical scroll (R282). -/
def execWrBg4vofs (eff : Tag) (val : BitVec 16) (s : State) : Host.Outcome State Fault Refusal :=
  execWrReg .bg4vofs eff val s

/-- `WR_REG.OBSEL`: writes the object size preset and the sprite bitmap bases (R283). -/
def execWrObsel (eff : Tag) (val : BitVec 16) (s : State) : Host.Outcome State Fault Refusal :=
  execWrReg .obsel eff val s

/-- `WR_REG.M7SEL`: writes the Mode 7 repeat mode and sub-layer enable (R284). -/
def execWrM7sel (eff : Tag) (val : BitVec 16) (s : State) : Host.Outcome State Fault Refusal :=
  execWrReg .m7sel eff val s

/-- `WR_REG.M7A`: writes matrix element A (R285). -/
def execWrM7a (eff : Tag) (val : BitVec 16) (s : State) : Host.Outcome State Fault Refusal :=
  execWrReg .m7a eff val s

/-- `WR_REG.M7B`: writes matrix element B (R286). -/
def execWrM7b (eff : Tag) (val : BitVec 16) (s : State) : Host.Outcome State Fault Refusal :=
  execWrReg .m7b eff val s

/-- `WR_REG.M7C`: writes matrix element C (R287). -/
def execWrM7c (eff : Tag) (val : BitVec 16) (s : State) : Host.Outcome State Fault Refusal :=
  execWrReg .m7c eff val s

/-- `WR_REG.M7D`: writes matrix element D (R288). -/
def execWrM7d (eff : Tag) (val : BitVec 16) (s : State) : Host.Outcome State Fault Refusal :=
  execWrReg .m7d eff val s

/-- `WR_REG.M7X`: writes the Mode 7 centre X (R289). -/
def execWrM7x (eff : Tag) (val : BitVec 16) (s : State) : Host.Outcome State Fault Refusal :=
  execWrReg .m7x eff val s

/-- `WR_REG.M7Y`: writes the Mode 7 centre Y (R290). -/
def execWrM7y (eff : Tag) (val : BitVec 16) (s : State) : Host.Outcome State Fault Refusal :=
  execWrReg .m7y eff val s

/-- `WR_REG.WH0`: writes the window 1 left edge (R291). -/
def execWrWh0 (eff : Tag) (val : BitVec 16) (s : State) : Host.Outcome State Fault Refusal :=
  execWrReg .wh0 eff val s

/-- `WR_REG.WH1`: writes the window 1 right edge (R292). -/
def execWrWh1 (eff : Tag) (val : BitVec 16) (s : State) : Host.Outcome State Fault Refusal :=
  execWrReg .wh1 eff val s

/-- `WR_REG.WH2`: writes the window 2 left edge (R293). -/
def execWrWh2 (eff : Tag) (val : BitVec 16) (s : State) : Host.Outcome State Fault Refusal :=
  execWrReg .wh2 eff val s

/-- `WR_REG.WH3`: writes the window 2 right edge (R294). -/
def execWrWh3 (eff : Tag) (val : BitVec 16) (s : State) : Host.Outcome State Fault Refusal :=
  execWrReg .wh3 eff val s

/-- `WR_REG.WSEL_BG1`: writes the window select and combine logic of window set BG1 (R295). -/
def execWrWselBg1 (eff : Tag) (val : BitVec 16) (s : State) : Host.Outcome State Fault Refusal :=
  execWrReg .wselBg1 eff val s

/-- `WR_REG.WSEL_BG2`: writes the window select and combine logic of window set BG2 (R296). -/
def execWrWselBg2 (eff : Tag) (val : BitVec 16) (s : State) : Host.Outcome State Fault Refusal :=
  execWrReg .wselBg2 eff val s

/-- `WR_REG.WSEL_BG3`: writes the window select and combine logic of window set BG3 (R297). -/
def execWrWselBg3 (eff : Tag) (val : BitVec 16) (s : State) : Host.Outcome State Fault Refusal :=
  execWrReg .wselBg3 eff val s

/-- `WR_REG.WSEL_BG4`: writes the window select and combine logic of window set BG4 (R298). -/
def execWrWselBg4 (eff : Tag) (val : BitVec 16) (s : State) : Host.Outcome State Fault Refusal :=
  execWrReg .wselBg4 eff val s

/-- `WR_REG.WSEL_OBJ`: writes the window select and combine logic of window set OBJ (R299). -/
def execWrWselObj (eff : Tag) (val : BitVec 16) (s : State) : Host.Outcome State Fault Refusal :=
  execWrReg .wselObj eff val s

/-- `WR_REG.WSEL_COL`: writes the window select and combine logic of window set COL (R300). -/
def execWrWselCol (eff : Tag) (val : BitVec 16) (s : State) : Host.Outcome State Fault Refusal :=
  execWrReg .wselCol eff val s

/-- `WR_REG.TM`: writes the main-screen layer enables (R301). -/
def execWrTm (eff : Tag) (val : BitVec 16) (s : State) : Host.Outcome State Fault Refusal :=
  execWrReg .tm eff val s

/-- `WR_REG.TS`: writes the sub-screen layer enables (R302). -/
def execWrTs (eff : Tag) (val : BitVec 16) (s : State) : Host.Outcome State Fault Refusal :=
  execWrReg .ts eff val s

/-- `WR_REG.TMW`: writes the main-screen window-mask enables (R303). -/
def execWrTmw (eff : Tag) (val : BitVec 16) (s : State) : Host.Outcome State Fault Refusal :=
  execWrReg .tmw eff val s

/-- `WR_REG.TSW`: writes the sub-screen window-mask enables (R304). -/
def execWrTsw (eff : Tag) (val : BitVec 16) (s : State) : Host.Outcome State Fault Refusal :=
  execWrReg .tsw eff val s

/-- `WR_REG.CGWSEL`: writes direct-colour select and the clip and prevent regions (R305). -/
def execWrCgwsel (eff : Tag) (val : BitVec 16) (s : State) : Host.Outcome State Fault Refusal :=
  execWrReg .cgwsel eff val s

/-- `WR_REG.CGADSUB`: writes the colour-math mode and participants (R306). -/
def execWrCgadsub (eff : Tag) (val : BitVec 16) (s : State) : Host.Outcome State Fault Refusal :=
  execWrReg .cgadsub eff val s

/-- `WR_REG.FIXEDCOLOR`: writes the sub-screen backdrop colour (R307). -/
def execWrFixedcolor (eff : Tag) (val : BitVec 16) (s : State) : Host.Outcome State Fault Refusal :=
  execWrReg .fixedcolor eff val s

/-- `WR_REG.INTERLACE`: writes the frame-interlace flag (R308). -/
def execWrInterlace (eff : Tag) (val : BitVec 16) (s : State) : Host.Outcome State Fault Refusal :=
  execWrReg .interlace eff val s

end Sys2Proof.Machine
end

