-- ==== Sys2Proof/Machine/Operands.lean ====
section
/-! DEFINITION. Reading operands: bit slices and sign extension (00_scope.md R10, R11), colours (R15), the fields of
the registers (10_state.md R31 to R49), of tilemap entries (30_encoding.md R124) and of sprite entries (R26), and the
planar bitmap (R125). -/

namespace Sys2Proof.Machine

/-! ## Slices and extensions -/

/-- `v[lo+len-1 : lo]` as an unsigned number (R10). -/
def slice {n : Nat} (v : BitVec n) (lo len : Nat) : Nat := (v.extractLsb' lo len).toNat

/-- `v[i]` as 0 or 1 (R10). -/
def bitNat {n : Nat} (v : BitVec n) (i : Nat) : Nat := if v.getLsbD i then 1 else 0

/-- `zext_N(v)` (R11). -/
def zext {n : Nat} (v : BitVec n) : Int := (v.toNat : Int)

/-- `sext_N(v)` (R11). -/
def sext {n : Nat} (v : BitVec n) : Int := v.toInt

/-- `clamp(v, lo, hi)` (R11). -/
def clamp (v lo hi : Int) : Int := if v < lo then lo else if hi < v then hi else v

/-- `v >>a k`, the shift that rounds toward minus infinity (R11). -/
def asr (v : Int) (k : Nat) : Int := v / (2 ^ k : Int)

/-! ## Colours -/

/-- A triple of channels: a colour15 before packing, or a colour8 (R15). -/
structure Rgb where
  r : Nat
  g : Nat
  b : Nat
deriving DecidableEq, Repr

/-- `Unpack15` (R15): red 4:0, green 9:5, blue 14:10. -/
def unpack15 (v : Colour15) : Rgb := { r := slice v 0 5, g := slice v 5 5, b := slice v 10 5 }

/-- The stored form of a colour15 (R15). -/
def pack15 (r g b : Nat) : Colour15 := BitVec.ofNat 5 b ++ BitVec.ofNat 5 g ++ BitVec.ofNat 5 r

/-! ## Layers -/

/-- The number of a background layer, BG1 = 0 (R16). -/
def Bg.num : Bg → Nat
  | .bg1 => 0
  | .bg2 => 1
  | .bg3 => 2
  | .bg4 => 3

/-- The number of a source layer: OBJ = 4, BACKDROP = 5 (R16). -/
def Src.num : Src → Nat
  | .bg l => l.num
  | .obj => 4
  | .backdrop => 5

/-- Layer `k`'s bit of an enable field (R16). -/
def layerBit {n : Nat} (v : BitVec n) (k : Src) : Bool := v.getLsbD k.num

/-! ## Register fields -/

/-- `BGMODE.MODE` (R32). -/
def bgMode (g : Regs) : Nat := slice g.bgmode 0 3

/-- `BGMODE.BG3PRIO` (R32). -/
def bg3Prio (g : Regs) : Bool := g.bgmode.getLsbD 3

/-- `MOSAIC.EN` of a layer (R33). -/
def mosaicEn (g : Regs) (l : Bg) : Bool := g.mosaic.getLsbD l.num

/-- The mosaic size `N` of a layer: `SIZE + 1` where its enable is 1, else 1 (R33, R156). -/
def mosaicN (g : Regs) (l : Bg) : Nat := if mosaicEn g l then slice g.mosaic 4 4 + 1 else 1

/-- `MOSAICPH.PHASE` (R34). -/
def mosaicPhase (g : Regs) : Nat := g.mosaicph.toNat

/-- `BGnSC` (R35). -/
def bgSc (g : Regs) : Bg → BitVec 9
  | .bg1 => g.bg1sc
  | .bg2 => g.bg2sc
  | .bg3 => g.bg3sc
  | .bg4 => g.bg4sc

/-- `BGnNBA.CHRBASE` (R36). -/
def chrBase (g : Regs) : Bg → Nat
  | .bg1 => g.bg1nba.toNat
  | .bg2 => g.bg2nba.toNat
  | .bg3 => g.bg3nba.toNat
  | .bg4 => g.bg4nba.toNat

/-- `BGnHOFS` (R37). -/
def bgHofs (g : Regs) : Bg → BitVec 16
  | .bg1 => g.bg1hofs
  | .bg2 => g.bg2hofs
  | .bg3 => g.bg3hofs
  | .bg4 => g.bg4hofs

/-- `BGnVOFS` (R37). -/
def bgVofs (g : Regs) : Bg → BitVec 16
  | .bg1 => g.bg1vofs
  | .bg2 => g.bg2vofs
  | .bg3 => g.bg3vofs
  | .bg4 => g.bg4vofs

/-- `BGnSC.W64` (R35). -/
def bgW64 (g : Regs) (l : Bg) : Bool := (bgSc g l).getLsbD 0

/-- `BGnSC.H64` (R35). -/
def bgH64 (g : Regs) (l : Bg) : Bool := (bgSc g l).getLsbD 1

/-- `BGnSC.MAPBASE` (R35). -/
def mapBase (g : Regs) (l : Bg) : Nat := slice (bgSc g l) 2 6

/-- The tile size of a layer in pixels: 16 if `BGnSC.TILE16`, else 8 (R35). -/
def tileSize (g : Regs) (l : Bg) : Nat := if (bgSc g l).getLsbD 8 then 16 else 8

/-- The tilemap's width in tiles (R35). -/
def mapW (g : Regs) (l : Bg) : Nat := if bgW64 g l then 64 else 32

/-- The tilemap's height in tiles (R35). -/
def mapH (g : Regs) (l : Bg) : Nat := if bgH64 g l then 64 else 32

/-- `OBSEL.NAMEBASE` (R38). -/
def nameBase (g : Regs) : Nat := slice g.obsel 0 3

/-- `OBSEL.NAMESEL` (R38). -/
def nameSel (g : Regs) : Nat := slice g.obsel 3 2

/-- `OBSEL.SIZE` (R38). -/
def objPreset (g : Regs) : Nat := slice g.obsel 5 3

/-- `M7SEL.REPEAT` (R39). -/
def m7Repeat (g : Regs) : Nat := slice g.m7sel 0 2

/-- `M7SEL.EXTBG` (R39). -/
def m7Extbg (g : Regs) : Bool := g.m7sel.getLsbD 2

/-- The window set of a source layer; the sixth set, numbered as BACKDROP is, is the colour window COL (R16, R43). -/
def wsel (g : Regs) : Src → BitVec 6
  | .bg .bg1 => g.wselBg1
  | .bg .bg2 => g.wselBg2
  | .bg .bg3 => g.wselBg3
  | .bg .bg4 => g.wselBg4
  | .obj => g.wselObj
  | .backdrop => g.wselCol

/-- `CGWSEL.DIRECT` (R46). -/
def cgDirect (g : Regs) : Bool := g.cgwsel.getLsbD 0

/-- `CGWSEL.PREVENT` (R46). -/
def cgPrevent (g : Regs) : Nat := slice g.cgwsel 4 2

/-- `CGWSEL.CLIP` (R46). -/
def cgClip (g : Regs) : Nat := slice g.cgwsel 6 2

/-- `CGADSUB.EN` of a source layer (R47). -/
def mathEn (g : Regs) (k : Src) : Bool := layerBit g.cgadsub k

/-- `CGADSUB.HALF` (R47). -/
def mathHalf (g : Regs) : Bool := g.cgadsub.getLsbD 6

/-- `CGADSUB.SUB` (R47). -/
def mathSub (g : Regs) : Bool := g.cgadsub.getLsbD 7

/-- The two screens a scanline composes (R17, R44). -/
inductive Screen where
  | main
  | sub
deriving DecidableEq, Repr

/-- `TM` or `TS` (R44). -/
def screenEn (g : Regs) : Screen → BitVec 5
  | .main => g.tm
  | .sub => g.ts

/-- `TMW` or `TSW` (R45). -/
def screenWinEn (g : Regs) : Screen → BitVec 5
  | .main => g.tmw
  | .sub => g.tsw

/-- The commit class of a register (46_register_write_commands.md R262): `true` for the same-scanline class, which is
the window registers, `false` for the next-scanline class. The core treats both alike; the class tells `HOST` which
tag to give a write. -/
def sameLineClass : RegName → Bool
  | .wh0 | .wh1 | .wh2 | .wh3 => true
  | .wselBg1 | .wselBg2 | .wselBg3 | .wselBg4 | .wselObj | .wselCol => true
  | .tmw | .tsw => true
  | _ => false

/-- The tag `HOST` gives a register write made during scanline `n` (20_memory.md R97). -/
def hostTag (r : RegName) (n : Nat) : Nat := if sameLineClass r then n else n + 1

/-! ## The configuration tables -/

/-- The row of MODEDEF for a mode (R152); a table with no such row has no layer there (DESIGN CHOICE, log entry 10). -/
def modeRow (c : Config) (mode : Nat) : ModeRow :=
  c.modeDef.getD mode { bg1 := .absent, bg2 := .absent, bg3 := .absent, bg4 := .absent, opt := false }

/-- `MODEDEF[MODE][L]` (R152). -/
def layerDef (r : ModeRow) : Bg → LayerDef
  | .bg1 => r.bg1
  | .bg2 => r.bg2
  | .bg3 => r.bg3
  | .bg4 => r.bg4

/-- The depth of a layer in bits per pixel (R155); 0 where the table gives none, which outside mode 7 makes a sub-layer
entry offer nothing (DESIGN CHOICE, log entry 10). -/
def layerBpp : LayerDef → Nat
  | .absent => 0
  | .bpp2 => 2
  | .bpp4 => 4
  | .bpp8 => 8
  | .subIfExtbg => 0

/-- Whether a layer is present in its mode (R151, R152); a sub-layer entry says that it is present when `M7SEL.EXTBG`
is set (43_mode7.md R207). -/
def layerPresent (d : LayerDef) (g : Regs) : Bool :=
  match d with
  | .absent => false
  | .subIfExtbg => m7Extbg g
  | _ => true

/-- `OBJSIZE[preset][size]` (R183). -/
def objDim (c : Config) (preset : Nat) (large : Bool) : ObjDim :=
  let row := c.objSize.getD preset { small := { w := 8, h := 8 }, large := { w := 8, h := 8 } }
  if large then row.large else row.small

/-! ## Tilemap entries, bitmaps, sprite entries -/

/-- The fields of a tilemap entry (30_encoding.md R124). -/
structure TileEntry where
  tile  : Nat
  pal   : BitVec 3
  prio  : Bool
  hflip : Bool
  vflip : Bool
deriving DecidableEq, Repr

/-- Reads a VRAM word as a tilemap entry: tile 9:0, palette 12:10, priority 13, h-flip 14, v-flip 15 (R124). -/
def tileEntry (e : VWord) : TileEntry :=
  { tile := slice e 0 10, pal := e.extractLsb' 10 3, prio := e.getLsbD 13, hflip := e.getLsbD 14, vflip := e.getLsbD 15 }

/-- The two bits that plane pair `k` contributes to the pixel in column `c`, from its word (R125). -/
def planePair (w : VWord) (c k : Nat) : Nat := bitNat w (7 - c) * 2 ^ (2 * k) + bitNat w (15 - c) * 2 ^ (2 * k + 1)

/-- The sum of the first `k` plane pairs of row `r`, column `c` of the bitmap at word `t` (R125). -/
def planeSum (m : Memory) (t c r : Nat) : Nat → Nat
  | 0 => 0
  | k + 1 => planeSum m t c r k + planePair (readVram m ((t + 8 * k + r) % vramSize)) c k

/-- `TilePixel(T, bpp, c, r)` (R125). -/
def tilePixel (m : Memory) (t bpp c r : Nat) : Nat := planeSum m t c r (bpp / 2)

/-- A sprite entry as the evaluator reads it: both tables of OAM (10_state.md R26). -/
structure Sprite where
  low  : OamLow
  high : OamHigh
deriving DecidableEq, Repr

/-- `OAM[i]` (00_scope.md R13). -/
def sprite (m : Memory) (i : Nat) : Sprite := { low := readLow m i, high := readHigh m i }

/-- `OAM[i].x = sext_9({xhi, xlo})` (R26). -/
def Sprite.x (e : Sprite) : Int := sext (BitVec.ofBool e.high.xhi ++ e.low.xlo)

/-- The size of a sprite under the current preset (R183). -/
def Sprite.dim (e : Sprite) (sc : Scene) : ObjDim := objDim sc.cfg (objPreset sc.regs) e.high.size

/-- What a layer offers for one position (41_background_renderer.md R150); the fields a candidate lacks are false
or 0 (R224). `prio` is the layer's priority bit. -/
structure Candidate where
  prio   : Bool
  cidx   : BitVec 8
  direct : Bool
  dcol   : Colour15
deriving DecidableEq, Repr

end Sys2Proof.Machine
end

