-- ==== Sys2Proof/Machine/Flags.lean ====
section
/-! DEFINITION. The machine has no flags and no condition codes (10_state.md R66). The conditions its rules compute
stand here: window membership and window logic (44_compositor.md R226, R227), the regions of the colour window
(45_color_math.md R242) and when colour math applies (R243). -/

namespace Sys2Proof.Machine

/-- `Xw = clamp(X, 0, 255)` (R226). -/
def windowX (x : Int) : Int := clamp x 0 255

/-- A window with these edges contains X; left > right contains nothing (R226). -/
def inWindow (left right : BitVec 8) (x : Int) : Bool :=
  decide (zext left ≤ windowX x) && decide (windowX x ≤ zext right)

/-- How two windows combine: 0 OR, 1 AND, 2 XOR, 3 XNOR (10_state.md R43; R227). -/
def windowLogic (logic : Nat) (a b : Bool) : Bool :=
  match logic with
  | 0 => a || b
  | 1 => a && b
  | 2 => a != b
  | _ => a == b

/-- The result of a window set from its select register and the membership in the two windows (R227). -/
def windowSelect (sel : BitVec 6) (in1 in2 : Bool) : Bool :=
  let a := in1 != sel.getLsbD 0
  let b := in2 != sel.getLsbD 2
  match sel.getLsbD 1, sel.getLsbD 3 with
  | false, false => false
  | true, false => a
  | false, true => b
  | true, true => windowLogic (slice sel 4 2) a b

/-- `Win(k, X)` (R227). -/
def win (g : Regs) (k : Src) (x : Int) : Bool :=
  windowSelect (wsel g k) (inWindow g.wh0 g.wh1 x) (inWindow g.wh2 g.wh3 x)

/-- `Region(f, cw)`: 0 nowhere, 1 outside the colour window, 2 inside it, 3 everywhere (45_color_math.md R242). -/
def region (f : Nat) (cw : Bool) : Bool :=
  match f with
  | 0 => false
  | 1 => !cw
  | 2 => cw
  | _ => true

/-- Where the main-screen colour is forced to black (R242). -/
def clipAt (g : Regs) (x : Int) : Bool := region (cgClip g) (win g .backdrop x)

/-- Where colour math is prevented (R242). -/
def preventAt (g : Regs) (x : Int) : Bool := region (cgPrevent g) (win g .backdrop x)

/-- `MathOn(m, prevent)` (R243). -/
def mathOn (g : Regs) (m : ScreenCell) (prevent : Bool) : Bool :=
  mathEn g m.src && !prevent && (m.src != .obj || m.pal47)

end Sys2Proof.Machine
end

