-- ==== Sys2Proof/Machine/Background.lean ====
section
/-! DEFINITION. The Background Layer Renderer: `BgPixel(L, X, y)` of the tile layers (41_background_renderer.md). -/

namespace Sys2Proof.Machine

/-- `MosaicX(L, X)` (R156). -/
def mosaicX (g : Regs) (l : Bg) (x : Int) : Int := x - x % (mosaicN g l : Int)

/-- `MosaicY(L, y)` (R157). -/
def mosaicY (g : Regs) (l : Bg) (y : Nat) : Nat :=
  if mosaicN g l = 1 ∨ y < mosaicPhase g then y else y - (y - mosaicPhase g) % mosaicN g l

/-- `MapAddr(L, tx, ty)` (R159). -/
def mapAddr (g : Regs) (l : Bg) (tx ty : Nat) : Nat :=
  (mapBase g l * 1024 + (ty % 32) * 32 + tx % 32
    + (if 32 ≤ tx then 1024 else 0)
    + (if 32 ≤ ty then (if bgW64 g l then 2048 else 1024) else 0)) % vramSize

/-- The position in the tilemap, in pixels, of a scrolled coordinate: modulo the tilemap's size, never clamped
(R158). -/
def mapPos (tiles size : Nat) (v : Int) : Nat := (v % ((tiles * size : Nat) : Int)).toNat

/-- The tilemap word at the scrolled position `(lx, ly)` of a layer (R154, R159). -/
def mapWord (sc : Scene) (l : Bg) (lx ly : Int) : VWord :=
  let t := tileSize sc.regs l
  readVram sc.mem (mapAddr sc.regs l (mapPos (mapW sc.regs l) t lx / t) (mapPos (mapH sc.regs l) t ly / t))

/-- `OptEntry(c, r)`: the BG3 tilemap word that holds a scroll override, with no mosaic (R169). -/
def optEntry (sc : Scene) (c r : Int) : VWord :=
  mapWord sc .bg3 (8 * c + zext sc.regs.bg3hofs) (8 * r + zext sc.regs.bg3vofs)

/-- The words of the override: horizontal and vertical (R168). In mode 4 there is one word, and its bit 15 says which
axis it is for. -/
def optWords (sc : Scene) (col : Int) : VWord × VWord :=
  let hv := optEntry sc (col - 1) 0
  if bgMode sc.regs = 4 then (if hv.getLsbD 15 then (0, hv) else (hv, 0))
  else (hv, optEntry sc (col - 1) 1)

/-- `Opt(L, lx, ly, sy)`: per-tile offset scroll (R168). -/
def opt (sc : Scene) (l : Bg) (lx ly sy : Int) : Int × Int :=
  let h := zext (bgHofs sc.regs l)
  let col := ((lx - lx % 8) - (h - h % 8)) / 8
  if col ≤ 0 then (lx, ly)
  else
    let (hv, vv) := optWords sc col
    let valid := if l = .bg1 then 13 else 14
    (if hv.getLsbD valid then ((slice hv 3 7 * 8 : Nat) : Int) + col * 8 + lx % 8 else lx,
     if vv.getLsbD valid then ((slice vv 0 10 : Nat) : Int) + sy else ly)

/-- Whether per-tile offset applies to a layer in the current mode (R152, R154). -/
def optApplies (sc : Scene) (l : Bg) : Bool :=
  (modeRow sc.cfg (bgMode sc.regs)).opt && (l == .bg1 || l == .bg2)

/-- The scrolled position of the sample at mosaic position `(sx, sy)` (R154, R158). -/
def scrolled (sc : Scene) (l : Bg) (sx sy : Int) : Int × Int :=
  let lx := sx + zext (bgHofs sc.regs l)
  let ly := sy + zext (bgVofs sc.regs l)
  if optApplies sc l then opt sc l lx ly sy else (lx, ly)

/-- An offset inside a tile of size `t`, mirrored by a flip (R160). -/
def flipped (f : Bool) (t v : Nat) : Nat := if f then t - 1 - v else v

/-- The 8×8 tile of a 16×16 tile that holds the flipped offset `(fx, fy)`; the tile itself when tiles are 8×8 (R161). -/
def subTile (t tile fx fy : Nat) : Nat := if t = 16 then (tile + fx / 8 + 16 * (fy / 8)) % 1024 else tile

/-- The word address of an 8×8 tile's bitmap (R162). -/
def bitmapAddr (g : Regs) (l : Bg) (bpp tile : Nat) : Nat := (chrBase g l * 4096 + tile * 4 * bpp) % vramSize

/-- The colour index of a non-direct pixel (R164). -/
def colourIndex (g : Regs) (l : Bg) (bpp : Nat) (pal : BitVec 3) (pix : Nat) : BitVec 8 :=
  match bpp with
  | 2 => BitVec.ofNat 8 (4 * pal.toNat + pix + (if bgMode g = 0 then 32 * l.num else 0))
  | 4 => BitVec.ofNat 8 (16 * pal.toNat + pix)
  | _ => BitVec.ofNat 8 pix

/-- The direct colour of an 8-bit pixel (R167). -/
def directColour (pal : BitVec 3) (pix : Nat) : Colour15 :=
  let p := BitVec.ofNat 8 pix
  pack15 (4 * slice p 0 3 + 2 * bitNat pal 0) (4 * slice p 3 3 + 2 * bitNat pal 1) (8 * slice p 6 2 + 4 * bitNat pal 2)

/-- `Colour(L, bpp, pal, pix)` with its priority bit (R164, R165, R167). -/
def colour (g : Regs) (l : Bg) (bpp : Nat) (pal : BitVec 3) (pix : Nat) (prio : Bool) : Candidate :=
  if cgDirect g ∧ bpp = 8 ∧ l = .bg1 then { prio := prio, cidx := 0, direct := true, dcol := directColour pal pix }
  else { prio := prio, cidx := colourIndex g l bpp pal pix, direct := false, dcol := 0 }

/-- The pixel a layer shows at scrolled position `(lx, ly)`; a pixel value of 0 is transparent (R154, R166). -/
def tileSample (sc : Scene) (l : Bg) (bpp : Nat) (lx ly : Int) : Option Candidate :=
  let t := tileSize sc.regs l
  let e := tileEntry (mapWord sc l lx ly)
  let fx := flipped e.hflip t (mapPos (mapW sc.regs l) t lx % t)
  let fy := flipped e.vflip t (mapPos (mapH sc.regs l) t ly % t)
  let pix := tilePixel sc.mem (bitmapAddr sc.regs l bpp (subTile t e.tile fx fy)) bpp (fx % 8) (fy % 8)
  if pix = 0 then none else some (colour sc.regs l bpp e.pal pix e.prio)

/-- `BgPixel(L, X, y)` for a layer of depth `bpp` (R154). -/
def bgPixel (sc : Scene) (l : Bg) (bpp : Nat) (x : Int) (y : Nat) : Option Candidate :=
  let p := scrolled sc l (mosaicX sc.regs l x) (mosaicY sc.regs l y : Int)
  tileSample sc l bpp p.1 p.2

end Sys2Proof.Machine
end

