-- ==== Sys2Proof/Machine/Mode7.lean ====
section
/-! DEFINITION. The Mode 7 Transform Unit: `M7Pixel(L, X, y)` (43_mode7.md). -/

namespace Sys2Proof.Machine

/-- The texture coordinate of screen position `(xs, ys)`, before the repeat step. All products and sums are exact
integers (R201, R202). -/
def m7Coord (g : Regs) (xs ys : Int) : Int × Int :=
  let cx := sext g.m7x
  let cy := sext g.m7y
  let dx := xs + sext g.bg1hofs - cx
  let dy := ys + sext g.bg1vofs - cy
  (asr (sext g.m7a * dx + sext g.m7b * dy) 8 + cx, asr (sext g.m7c * dx + sext g.m7d * dy) 8 + cy)

/-- `outside`: the coordinate is not in the 1024×1024 texture (R204). -/
def m7Outside (u v : Int) : Bool := decide (u < 0) || decide (1023 < u) || decide (v < 0) || decide (1023 < v)

/-- `MapTile(u', v')` (R204). -/
def m7MapTile (m : Memory) (u v : Nat) : Nat := slice (readVram m (v / 8 * 128 + u / 8)) 0 8

/-- The 8-bit pixel of tile `t` at column `u mod 8`, row `v mod 8` (R205). -/
def m7TilePixel (m : Memory) (t u v : Nat) : BitVec 8 := (readVram m (t * 64 + v % 8 * 8 + u % 8)).extractLsb' 8 8

/-- The pixel at texture coordinate `(u, v)` under the repeat mode; `none` where the outside is transparent
(R204, R205). -/
def m7Fetch (sc : Scene) (u v : Int) : Option (BitVec 8) :=
  let r := m7Repeat sc.regs
  if r = 0 ∨ r = 1 then
    let u' := (u % 1024).toNat
    let v' := (v % 1024).toNat
    some (m7TilePixel sc.mem (m7MapTile sc.mem u' v') u' v')
  else if m7Outside u v = false then
    some (m7TilePixel sc.mem (m7MapTile sc.mem u.toNat v.toNat) u.toNat v.toNat)
  else if r = 2 then none
  else some (m7TilePixel sc.mem 0 (u % 8).toNat (v % 8).toNat)

/-- The fetched pixel of screen position `(X, y)`: mosaic is BG1's for both layers (R203). -/
def m7Sample (sc : Scene) (x : Int) (y : Nat) : Option (BitVec 8) :=
  let c := m7Coord sc.regs (mosaicX sc.regs .bg1 x) (mosaicY sc.regs .bg1 y : Int)
  m7Fetch sc c.1 c.2

/-- The main layer's candidate: one priority level, pixel 0 transparent (R206, R208). -/
def m7Main (g : Regs) (pix : BitVec 8) : Option Candidate :=
  if pix = 0 then none else some (colour g .bg1 8 0 pix.toNat false)

/-- The sub-layer's candidate: bit 7 is the priority, bits 6:0 the colour (R207). -/
def m7Sub (pix : BitVec 8) : Option Candidate :=
  if slice pix 0 7 = 0 then none
  else some { prio := pix.getLsbD 7, cidx := BitVec.ofNat 8 (slice pix 0 7), direct := false, dcol := 0 }

/-- `M7Pixel(L, X, y)`: BG1 is the Mode 7 layer and BG2 its sub-layer, which exists iff `M7SEL.EXTBG` = 1 (R200,
R206, R207). The spec defines it for no other layer. DESIGN CHOICE for tables other than the default (log entry 10):
BG3 and BG4 offer nothing, and the depth that MODEDEF gives BG1 or BG2 in mode 7 does not matter. -/
def m7Pixel (sc : Scene) (l : Bg) (x : Int) (y : Nat) : Option Candidate :=
  match l with
  | .bg1 => (m7Sample sc x y).bind (m7Main sc.regs)
  | .bg2 => if m7Extbg sc.regs then (m7Sample sc x y).bind m7Sub else none
  | .bg3 => none
  | .bg4 => none

end Sys2Proof.Machine
end

