-- ==== Sys2Proof/Machine/Compositor.lean ====
section
/-! DEFINITION. The Compositor: ranks, `Offer` and `BuildScreen(S, y)` (44_compositor.md). -/

namespace Sys2Proof.Machine

/-- The row of RANK in use, `MODE'` (R222). -/
def rankRow (t : RankTable) (g : Regs) : RankRow :=
  match bgMode g with
  | 0 => t.m0
  | 1 => if bg3Prio g then t.m1p else t.m1
  | 2 => t.m2
  | 3 => t.m2
  | 4 => t.m2
  | 5 => t.m5
  | 6 => t.m5
  | _ => t.m7

/-- `RANK[MODE'][L][p]` of a background layer (R222). -/
def bgRank (r : RankRow) (l : Bg) (prio : Bool) : Nat :=
  let b := match l with
    | .bg1 => r.bg1
    | .bg2 => r.bg2
    | .bg3 => r.bg3
    | .bg4 => r.bg4
  if prio then b.p1 else b.p0

/-- `RANK[MODE'][OBJ][p]` (R222). -/
def objRank (r : RankRow) (prio : BitVec 2) : Nat :=
  match prio.toNat with
  | 0 => r.obj0
  | 1 => r.obj1
  | 2 => r.obj2
  | _ => r.obj3

/-- `Offer(BUF, X, z, L, p)` on one cell: the candidate takes it iff its rank is strictly greater (R224). -/
def offer (cell cand : ScreenCell) : ScreenCell := if cell.z < cand.z then cand else cell

/-- What a background layer offers at X, on either screen: `none` where the layer is absent from the mode or its pixel
is transparent (R151, R218). In modes 5 and 6 no background layer exists, whatever MODEDEF says (R153). DESIGN CHOICE
for tables other than the default (log entry 10): a sub-layer entry outside mode 7 offers nothing; in mode 7 the entry
says only whether the layer is present. -/
def layerPixel (sc : Scene) (l : Bg) (x : Int) (y : Nat) : Option Candidate :=
  let d := layerDef (modeRow sc.cfg (bgMode sc.regs)) l
  if layerPresent d sc.regs = false then none
  else if bgMode sc.regs = 7 then m7Pixel sc l x y
  else if bgMode sc.regs = 5 ∨ bgMode sc.regs = 6 then none
  else if layerBpp d = 0 then none
  else bgPixel sc l (layerBpp d) x y

/-- The layer is enabled on the screen and its window does not hide it at X (R218, R225). -/
def layerVisible (g : Regs) (s : Screen) (k : Src) (x : Int) : Bool :=
  layerBit (screenEn g s) k && !(layerBit (screenWinEn g s) k && win g k x)

/-- The cell a background candidate makes (R224). -/
def bgCell (sc : Scene) (l : Bg) (p : Candidate) : ScreenCell :=
  { z := bgRank (rankRow sc.cfg.rank sc.regs) l p.prio, src := .bg l, cidx := p.cidx, direct := p.direct,
    dcol := p.dcol, pal47 := false }

/-- The cell a sprite pixel makes (R224). -/
def objCell (sc : Scene) (o : ObjPixel) : ScreenCell :=
  { z := objRank (rankRow sc.cfg.rank sc.regs) o.prio, src := .obj, cidx := o.cidx, direct := false, dcol := 0,
    pal47 := o.pal47 }

/-- The cells offered at X on screen `s` by one background layer: one or none (R218). -/
def bgOffers (sc : Scene) (s : Screen) (x : Int) (y : Nat) (l : Bg) : List ScreenCell :=
  if layerVisible sc.regs s (.bg l) x then ((layerPixel sc l x y).map (bgCell sc l)).toList else []

/-- The cells offered at X on screen `s` by the sprite layer: one or none (R218). -/
def objOffers (sc : Scene) (s : Screen) (x : Int) (o : Option ObjPixel) : List ScreenCell :=
  if layerVisible sc.regs s .obj x then (o.map (objCell sc)).toList else []

/-- All cells offered at X, in the order of `BuildScreen`: BG1 to BG4, then OBJ (R218). -/
def offersAt (sc : Scene) (s : Screen) (o : Option ObjPixel) (x : Int) (y : Nat) : List ScreenCell :=
  bgOffers sc s x y .bg1 ++ bgOffers sc s x y .bg2 ++ bgOffers sc s x y .bg3 ++ bgOffers sc s x y .bg4
    ++ objOffers sc s x o

/-- The backdrop cell of a screen: `CGRAM[0]` on the main screen, `FIXEDCOLOR` on the sub screen (R216, R217). -/
def backdrop (g : Regs) : Screen → ScreenCell
  | .main => { z := 0, src := .backdrop, cidx := 0, direct := false, dcol := 0, pal47 := false }
  | .sub => { z := 0, src := .backdrop, cidx := 0, direct := true, dcol := g.fixedcolor, pal47 := false }

/-- The final cell at X: the backdrop, then every offer (R216, R218, R224). -/
def mergeCell (sc : Scene) (s : Screen) (o : Option ObjPixel) (x : Int) (y : Nat) : ScreenCell :=
  (offersAt sc s o x y).foldl offer (backdrop sc.regs s)

/-- Screen X of a frame-buffer column (00_scope.md R7). -/
def columnX (c : Config) (col : Nat) : Int := (col : Int) - (c.padL : Int)

/-- `BuildScreen(S, y)`: the whole buffer, by column. Cells of different X do not meet, so the loop over X stands
outside (R218; 20_memory.md R92; log entry 9). -/
def buildScreen (sc : Scene) (s : Screen) (objbuf : List (Option ObjPixel)) (y : Nat) : List ScreenCell :=
  (List.range sc.cfg.width).map (fun col => mergeCell sc s (objbuf.getD col none) (columnX sc.cfg col) y)

end Sys2Proof.Machine
end

