-- ==== Sys2Proof/Machine/ColorMath.lean ====
section
/-! DEFINITION. The colour-math ALU, brightness and pixel output (45_color_math.md). -/

namespace Sys2Proof.Machine

/-- `Resolve(cell)` (R241). -/
def resolve (m : Memory) (cell : ScreenCell) : Rgb :=
  unpack15 (if cell.direct then cell.dcol else readCgram m cell.cidx.toNat)

/-- The blend of one channel: add or subtract, then halve, then clamp (R244). -/
def blendChannel (sub half : Bool) (c1 c2 : Nat) : Nat :=
  let t : Int := if sub then (c1 : Int) - (c2 : Int) else (c1 : Int) + (c2 : Int)
  (clamp (if half then asr t 1 else t) 0 31).toNat

/-- The blend of two colours, channel by channel (R244). -/
def blend (g : Regs) (a b : Rgb) : Rgb :=
  { r := blendChannel (mathSub g) (mathHalf g) a.r b.r
    g := blendChannel (mathSub g) (mathHalf g) a.g b.g
    b := blendChannel (mathSub g) (mathHalf g) a.b b.b }

/-- Brightness level `l` on a channel, widened to 8 bits: `c' = (c·L) div 15`, `c8 = 8·c' + c' div 4` (R248). -/
def brightChannel (l c : Nat) : Nat := 8 * (c * l / 15) + c * l / 15 / 4

/-- The output pixel of a colour: brightness last, A = 255 (R248, R250). -/
def brightPixel (g : Regs) (c : Rgb) : Pixel :=
  { r := BitVec.ofNat 8 (brightChannel g.bright.toNat c.r)
    g := BitVec.ofNat 8 (brightChannel g.bright.toNat c.g)
    b := BitVec.ofNat 8 (brightChannel g.bright.toNat c.b)
    a := 255 }

/-- The main-screen colour before blending: black where clipped (R242, R250). -/
def mainColour (sc : Scene) (m : ScreenCell) (x : Int) : Rgb :=
  if clipAt sc.regs x then { r := 0, g := 0, b := 0 } else resolve sc.mem m

/-- The colour of a position after colour math (R250). -/
def mixColour (sc : Scene) (m s : ScreenCell) (x : Int) : Rgb :=
  if mathOn sc.regs m (preventAt sc.regs x) then blend sc.regs (mainColour sc m x) (resolve sc.mem s)
  else mainColour sc m x

/-- The pixel of a position (R250). -/
def outputPixel (sc : Scene) (m s : ScreenCell) (x : Int) : Pixel := brightPixel sc.regs (mixColour sc m s x)

/-- `Output(y)`: the whole row, by column (R250). -/
def outputRow (sc : Scene) (mainbuf subbuf : List ScreenCell) : Row :=
  (List.range sc.cfg.width).map (fun col =>
    outputPixel sc (mainbuf.getD col (backdrop sc.regs .main)) (subbuf.getD col (backdrop sc.regs .sub))
      (columnX sc.cfg col))

end Sys2Proof.Machine
end

