-- ==== Sys2Proof/Machine/Sprites.lean ====
section
/-! DEFINITION. The Sprite Evaluator: `EvalSprites(y)`, which fills `OBJBUF` for a scanline
(42_sprite_evaluator.md). -/

namespace Sys2Proof.Machine

/-- The evaluator in the middle of its scan: `OBJBUF` by column, the sprites accepted and the tiles fetched (R181). -/
structure ObjScan where
  buf   : List (Option ObjPixel)
  nspr  : Nat
  ntile : Nat
deriving DecidableEq, Repr

/-- `ObjTileAddr(e, tc, row)` (R189). -/
def objTileAddr (g : Regs) (low : OamLow) (tc row : Nat) : Nat :=
  let tr := (slice low.tile 4 4 + row / 8) % 16
  let tcol := (slice low.tile 0 4 + tc) % 16
  let base := nameBase g * 8192 + (if low.name then (nameSel g + 1) * 4096 else 0)
  (base + (16 * tr + tcol) * 16 + row % 8) % vramSize

/-- The pixel value from bit `b` of the two words of a tile row (R190). -/
def objPix (w0 w1 : VWord) (b : Nat) : Nat :=
  bitNat w0 b + 2 * bitNat w0 (8 + b) + 4 * bitNat w1 b + 8 * bitNat w1 (8 + b)

/-- The bit that holds screen pixel `p` of a tile (R181, R190). -/
def objBit (hflip : Bool) (p : Nat) : Nat := if hflip then p else 7 - p

/-- `OBJBUF[X] <- some(p)` while the cell is `none`, for X in `XRANGE` (R191). -/
def putObj (c : Config) (buf : List (Option ObjPixel)) (x : Int) (p : ObjPixel) : List (Option ObjPixel) :=
  if x < c.xMin ∨ c.xMax < x then buf
  else
    let col := (x + (c.padL : Int)).toNat
    match buf[col]? with
    | some none => buf.set col (some p)
    | _ => buf

/-- The entry a sprite pixel leaves in `OBJBUF` (R181, R190, R192). -/
def objPixel (low : OamLow) (pix : Nat) : ObjPixel :=
  { cidx := BitVec.ofNat 8 (128 + 16 * low.pal.toNat + pix), prio := low.prio, pal47 := decide (4 ≤ low.pal.toNat) }

/-- Draws the pixels `ps` of one fetched tile whose left edge is at `x` (R181). -/
def drawPixels (c : Config) (low : OamLow) (w0 w1 : VWord) (x : Int) :
    List Nat → List (Option ObjPixel) → List (Option ObjPixel)
  | [], buf => buf
  | p :: ps, buf =>
    let pix := objPix w0 w1 (objBit low.hflip p)
    drawPixels c low w0 w1 x ps (if pix = 0 then buf else putObj c buf (x + (p : Int)) (objPixel low pix))

/-- Fetches and draws the tile at column `col` of a sprite of width `w` (R181, R189). -/
def drawTile (sc : Scene) (e : Sprite) (w row col : Nat) (buf : List (Option ObjPixel)) : List (Option ObjPixel) :=
  let ucol := if e.low.hflip then w - 8 - col else col
  let a := objTileAddr sc.regs e.low (ucol / 8) row
  drawPixels sc.cfg e.low (readVram sc.mem a) (readVram sc.mem ((a + 8) % vramSize)) (e.x + (col : Int))
    (List.range 8) buf

/-- A tile whose left edge is at `x` has a pixel inside `XRANGE`: only such a tile is fetched and counted (R188). -/
def tileOnScreen (c : Config) (x : Int) : Bool := decide (-8 - (c.padL : Int) < x) && decide (x ≤ c.xMax)

/-- The tiles of one sprite, left to right. The flag is true when the 35th tile was met, which ends the evaluation of
the line (R188). -/
def scanTiles (sc : Scene) (e : Sprite) (w row : Nat) : List Nat → ObjScan → ObjScan × Bool
  | [], a => (a, false)
  | col :: cols, a =>
    if tileOnScreen sc.cfg (e.x + (col : Int)) then
      if a.ntile = tileLimit then (a, true)
      else scanTiles sc e w row cols { a with buf := drawTile sc e w row col a.buf, ntile := a.ntile + 1 }
    else scanTiles sc e w row cols a

/-- `row = (y − OAM[i].y) mod 256` (R184). -/
def spriteRow (e : Sprite) (y : Nat) : Nat := (((y : Int) - zext e.low.y) % 256).toNat

/-- A sprite covers scanline `y` and does not lie wholly to the left of the picture (R184, R185). -/
def spriteInRange (sc : Scene) (e : Sprite) (y : Nat) : Bool :=
  decide (spriteRow e y < (e.dim sc).h) && decide (-((e.dim sc).w : Int) - (sc.cfg.padL : Int) < e.x)

/-- The bitmap row shown at sprite row `row` (R187). -/
def bitmapRow (vflip : Bool) (h row : Nat) : Nat := if vflip then h - 1 - row else row

/-- The left edges of a sprite's tile columns: 0, 8, ..., w − 8 (R181). -/
def tileCols (w : Nat) : List Nat := (List.range (w / 8)).map (fun k => 8 * k)

/-- The scan of OAM over the indices given, in their order. The 33rd in-range entry ends it, and so does the 35th
tile (R181, R182, R186, R188). -/
def scanSprites (sc : Scene) (y : Nat) : List Nat → ObjScan → ObjScan
  | [], a => a
  | i :: is, a =>
    let e := sprite sc.mem i
    if spriteInRange sc e y = false then scanSprites sc y is a
    else if a.nspr = spriteLimit then a
    else
      let r := scanTiles sc e (e.dim sc).w (bitmapRow e.low.vflip (e.dim sc).h (spriteRow e y)) (tileCols (e.dim sc).w)
        { a with nspr := a.nspr + 1 }
      if r.2 then r.1 else scanSprites sc y is r.1

/-- The scan before its first entry: every cell of `OBJBUF` is `none` (R181). -/
def ObjScan.start (c : Config) : ObjScan := { buf := List.replicate c.width none, nspr := 0, ntile := 0 }

/-- `EvalSprites(y)`: the whole scan, from entry 0 to entry 127 (R181, R182). -/
def evalSprites (sc : Scene) (y : Nat) : ObjScan := scanSprites sc y (List.range oamSize) (ObjScan.start sc.cfg)

end Sys2Proof.Machine
end

