-- ==== Sys2Proof/Machine/Scanline.lean ====
section
/-! DEFINITION. One scanline through the whole pipeline, `Line(n)`, and the lines of a frame
(47_render_commands.md R321, R322, R326). -/

namespace Sys2Proof.Machine

/-- `OBJBUF` as scanline `n` leaves it. -/
def lineObj (sc : Scene) (n : Nat) : List (Option ObjPixel) := (evalSprites sc n).buf

/-- `MAINBUF` as scanline `n` leaves it. -/
def lineMain (sc : Scene) (n : Nat) : List ScreenCell := buildScreen sc .main (lineObj sc n) n

/-- `SUBBUF` as scanline `n` leaves it. -/
def lineSub (sc : Scene) (n : Nat) : List ScreenCell := buildScreen sc .sub (lineObj sc n) n

/-- The row scanline `n` writes, a function of the scene and `n` only (R330). -/
def lineRow (sc : Scene) (n : Nat) : Row := outputRow sc (lineMain sc n) (lineSub sc n)

/-- The stages of `Line(n)`: sprites, main screen, sub screen, output (R321, R322, R323). -/
def drawLine (n : Nat) (s : State) : State :=
  (s.withScratch (lineObj s.scene n) (lineMain s.scene n) (lineSub s.scene n)).withFb
    (writeRow s.cfg s.fb n (lineRow s.scene n))

/-- The end of `Line(n)`: `SEQ`, and the commit point where a scanline follows (R321, R324; for one scanline, log
entry 18). -/
def endLine (n : Nat) (s : State) : State :=
  if n + 1 = s.cfg.hLines then s.withSeq .frameComplete else commit (n + 1) (s.withSeq (.scanlineInProgress n))

/-- `Line(n)` (R321). -/
def line (n : Nat) (s : State) : State := endLine n (drawLine n s)

/-- `Line(n)`, `Line(n+1)`, ..., `k` of them (R326). -/
def linesFrom : Nat → Nat → State → State
  | _, 0, s => s
  | n, k + 1, s => linesFrom (n + 1) k (line n s)

end Sys2Proof.Machine
end

