-- ==== Sys2Proof/Machine/RenderCommands.lean ====
section
/-! DEFINITION. The meanings of `RENDER_LINE`, `RENDER_FRAME` and `GET_FRAME` (47_render_commands.md). -/

namespace Sys2Proof.Machine

/-- `RENDER_LINE n`: rejected with `E_SEQ` unless `n = NEXT`; else `Line(n)`, answering the row (R321). -/
def execRenderLine (n : BitVec 16) (s : State) : Host.Outcome State Fault Refusal :=
  if n.toNat ≠ s.next then .next (reject s .eSeq)
  else
    let t := line n.toNat s
    .next (respond t (.okRow (fbRow t.cfg t.fb n.toNat)))

/-- `RENDER_FRAME`: rejected with `E_SEQ` in mid-frame; else every line of a frame, answering the frame buffer (R326). -/
def execRenderFrame (s : State) : Host.Outcome State Fault Refusal :=
  match s.seq with
  | .scanlineInProgress _ => .next (reject s .eSeq)
  | .idle => .next (respond (linesFrom 0 s.cfg.hLines s) (frameResponse (linesFrom 0 s.cfg.hLines s)))
  | .frameComplete => .next (respond (linesFrom 0 s.cfg.hLines s) (frameResponse (linesFrom 0 s.cfg.hLines s)))

/-- `GET_FRAME`: answers the frame buffer as it stands and changes nothing (R327). -/
def execGetFrame (s : State) : Host.Outcome State Fault Refusal := .next (respond s (frameResponse s))

end Sys2Proof.Machine
end

