-- ==== Sys2Proof/Machine/Dispatch.lean ====
section
/-! DEFINITION. `exec`: one arm for each command, one direct call of its meaning. -/

namespace Sys2Proof.Machine

def exec (i : Instr) (s : State) : Host.Outcome State Fault Refusal :=
  match i with
  | .nop => Sys2Proof.Machine.execNop s
  | .wrVram eff off data => Sys2Proof.Machine.execWrVram eff off data s
  | .wrCgram eff idx val => Sys2Proof.Machine.execWrCgram eff idx val s
  | .wrOam eff idx f => Sys2Proof.Machine.execWrOam eff idx f s
  | .wrBright eff val => Sys2Proof.Machine.execWrBright eff val s
  | .wrBgmode eff val => Sys2Proof.Machine.execWrBgmode eff val s
  | .wrMosaic eff val => Sys2Proof.Machine.execWrMosaic eff val s
  | .wrMosaicph eff val => Sys2Proof.Machine.execWrMosaicph eff val s
  | .wrBg1sc eff val => Sys2Proof.Machine.execWrBg1sc eff val s
  | .wrBg2sc eff val => Sys2Proof.Machine.execWrBg2sc eff val s
  | .wrBg3sc eff val => Sys2Proof.Machine.execWrBg3sc eff val s
  | .wrBg4sc eff val => Sys2Proof.Machine.execWrBg4sc eff val s
  | .wrBg1nba eff val => Sys2Proof.Machine.execWrBg1nba eff val s
  | .wrBg2nba eff val => Sys2Proof.Machine.execWrBg2nba eff val s
  | .wrBg3nba eff val => Sys2Proof.Machine.execWrBg3nba eff val s
  | .wrBg4nba eff val => Sys2Proof.Machine.execWrBg4nba eff val s
  | .wrBg1hofs eff val => Sys2Proof.Machine.execWrBg1hofs eff val s
  | .wrBg2hofs eff val => Sys2Proof.Machine.execWrBg2hofs eff val s
  | .wrBg3hofs eff val => Sys2Proof.Machine.execWrBg3hofs eff val s
  | .wrBg4hofs eff val => Sys2Proof.Machine.execWrBg4hofs eff val s
  | .wrBg1vofs eff val => Sys2Proof.Machine.execWrBg1vofs eff val s
  | .wrBg2vofs eff val => Sys2Proof.Machine.execWrBg2vofs eff val s
  | .wrBg3vofs eff val => Sys2Proof.Machine.execWrBg3vofs eff val s
  | .wrBg4vofs eff val => Sys2Proof.Machine.execWrBg4vofs eff val s
  | .wrObsel eff val => Sys2Proof.Machine.execWrObsel eff val s
  | .wrM7sel eff val => Sys2Proof.Machine.execWrM7sel eff val s
  | .wrM7a eff val => Sys2Proof.Machine.execWrM7a eff val s
  | .wrM7b eff val => Sys2Proof.Machine.execWrM7b eff val s
  | .wrM7c eff val => Sys2Proof.Machine.execWrM7c eff val s
  | .wrM7d eff val => Sys2Proof.Machine.execWrM7d eff val s
  | .wrM7x eff val => Sys2Proof.Machine.execWrM7x eff val s
  | .wrM7y eff val => Sys2Proof.Machine.execWrM7y eff val s
  | .wrWh0 eff val => Sys2Proof.Machine.execWrWh0 eff val s
  | .wrWh1 eff val => Sys2Proof.Machine.execWrWh1 eff val s
  | .wrWh2 eff val => Sys2Proof.Machine.execWrWh2 eff val s
  | .wrWh3 eff val => Sys2Proof.Machine.execWrWh3 eff val s
  | .wrWselBg1 eff val => Sys2Proof.Machine.execWrWselBg1 eff val s
  | .wrWselBg2 eff val => Sys2Proof.Machine.execWrWselBg2 eff val s
  | .wrWselBg3 eff val => Sys2Proof.Machine.execWrWselBg3 eff val s
  | .wrWselBg4 eff val => Sys2Proof.Machine.execWrWselBg4 eff val s
  | .wrWselObj eff val => Sys2Proof.Machine.execWrWselObj eff val s
  | .wrWselCol eff val => Sys2Proof.Machine.execWrWselCol eff val s
  | .wrTm eff val => Sys2Proof.Machine.execWrTm eff val s
  | .wrTs eff val => Sys2Proof.Machine.execWrTs eff val s
  | .wrTmw eff val => Sys2Proof.Machine.execWrTmw eff val s
  | .wrTsw eff val => Sys2Proof.Machine.execWrTsw eff val s
  | .wrCgwsel eff val => Sys2Proof.Machine.execWrCgwsel eff val s
  | .wrCgadsub eff val => Sys2Proof.Machine.execWrCgadsub eff val s
  | .wrFixedcolor eff val => Sys2Proof.Machine.execWrFixedcolor eff val s
  | .wrInterlace eff val => Sys2Proof.Machine.execWrInterlace eff val s
  | .renderLine line => Sys2Proof.Machine.execRenderLine line s
  | .renderFrame => Sys2Proof.Machine.execRenderFrame s
  | .getFrame => Sys2Proof.Machine.execGetFrame s

end Sys2Proof.Machine
end

