-- ==== Sys2Proof/Machine/Step.lean ====
section
/-! DEFINITION. One step of the machine (00_scope.md R12): `HOST` has presented a command, and `CORE` rejects it or
performs it. With no whole command at the port the core is idle and holds its state (60_exceptions.md R364; log
entry 5). And the host's hook that presents a command. -/

namespace Sys2Proof.Machine

/-- One step: takes the next command from the port; a header that does not decode is `E_DECODE` and its words are
consumed (30_encoding.md R115, R116; 60_exceptions.md R343). -/
def step (s : State) : Host.Outcome State Fault Refusal :=
  match fetch s with
  | .none => .next s
  | .illegal s' => .next (reject s' .eDecode)
  | .command i s' => exec i s'

/-- The state with one instruction, given as `nbits` bits `w` (the first word's bits lowest, the bits above `nbits`
zero), presented at the command port in front of whatever stands there, so that the next step runs it. -/
def State.withFetchWord (s : State) (nbits w : Nat) : State := s.withStream (tableWords nbits w ++ s.stream)

end Sys2Proof.Machine
end

