-- ==== Sys2Proof/Safety.lean ====
section
/-! DEFINITION. What counts as a legal state and a safe run of the machine: the invariant of its state, the states it
can reach, the outcomes of a command, and the sprite tiles of a scanline, in the terms the statements use. -/

namespace Sys2Proof.Machine

/-- A queued act names cells that exist: "a queued write can therefore not fail when it is committed"
(60_exceptions.md R344). -/
def actWf : WriteAct → Bool
  | .vram off data => decide (off + data.length ≤ vramSize)
  | .cgram idx _ => decide (idx < cgramSize)
  | .oam idx _ _ => decide (idx < oamSize)
  | .reg _ _ => true

/-- `SEQ` is `Idle`, `FrameComplete`, or `ScanlineInProgress(n)` with n ≤ `H_LINES` − 2 (10_state.md R60). -/
def seqWf (c : Config) : Seq → Bool
  | .scanlineInProgress n => decide (n + 1 < c.hLines)
  | .idle => true
  | .frameComplete => true

/-- An entry of `PENDING` is legal: `NEXT < eff ≤ H_LINES − 1` (10_state.md R62), and its act names existing cells. -/
def pendingWf (c : Config) (next : Nat) (e : PendingWrite) : Bool :=
  decide (next < e.eff.toNat) && decide (e.eff.toNat < c.hLines) && actWf e.act

/-- `PENDING` holds at most `PENDQ_DEPTH` entries (10_state.md R62; 00_scope.md R9). -/
def depthWf (c : Config) (p : List PendingWrite) : Bool :=
  match c.pendqDepth with
  | none => true
  | some d => decide (p.length ≤ d)

/-- The invariant of the machine's state. -/
structure State.Inv (s : State) : Prop where
  /-- The parameters meet the spec's constraints (00_scope.md R7 to R9). -/
  cfg : s.cfg.wf = true
  /-- The Memory Store is in canonical form: no cell outside a space, no cell listed twice. -/
  mem : s.mem.wf = true
  /-- The frame buffer is in canonical form: rows below `H_LINES`, `WIDTH` pixels each (10_state.md R65). -/
  fb : fbWf s.cfg s.fb = true
  /-- The sequencer holds a value of R60. -/
  seq : seqWf s.cfg s.seq = true
  /-- Every entry of `PENDING` is legal (R62). -/
  pending : s.pending.all (pendingWf s.cfg s.next) = true
  /-- `PENDING` is within its capacity (R62). -/
  depth : depthWf s.cfg s.pending = true
  /-- `OBJBUF` has one cell for each X of `XRANGE` (R63). -/
  objbuf : s.objbuf.length = s.cfg.width
  /-- `MAINBUF` has one cell for each X of `XRANGE` (R64). -/
  mainbuf : s.mainbuf.length = s.cfg.width
  /-- `SUBBUF` has one cell for each X of `XRANGE` (R64). -/
  subbuf : s.subbuf.length = s.cfg.width

/-- The states the machine can be in: after reset with any well-formed parameters and any initial memories (R372),
after `HOST` puts words at the port, and after a step. -/
inductive Reachable : State → Prop where
  | reset (c : Config) (m : Memory) (fb : FrameBuf) (hc : c.wf = true) (hm : m.wf = true) (hf : fbWf c fb = true) :
      Reachable (State.resetWith c m fb)
  | present (s : State) (ws : List Word) (h : Reachable s) : Reachable (s.present ws)
  | step (s t : State) (h : Reachable s) (hs : Sys2Proof.Machine.step s = .next t) : Reachable t

/-- An outcome is a next state: the machine neither faults nor is refused. -/
def completes (o : Host.Outcome State Fault Refusal) : Prop := ∃ t, o = .next t

/-- The tag of a write is legal: `NEXT ≤ eff ≤ H_LINES − 1` (20_memory.md R94). -/
def tagLegal (s : State) (eff : Tag) : Prop := s.next ≤ eff.toNat ∧ eff.toNat < s.cfg.hLines

/-- A write with this tag takes effect at once: `eff = NEXT`, and that scanline exists (20_memory.md R94, R95). -/
def tagNow (s : State) (eff : Tag) : Prop := eff.toNat = s.next ∧ s.next < s.cfg.hLines

/-- A write with this tag is for a later boundary: `NEXT < eff ≤ H_LINES − 1` (20_memory.md R94, R95). -/
def tagLater (s : State) (eff : Tag) : Prop := s.next < eff.toNat ∧ eff.toNat < s.cfg.hLines

/-- `PENDING` holds exactly `PENDQ_DEPTH` entries (40_memory_write_commands.md R140). -/
def queueIsFull (s : State) : Prop := s.cfg.pendqDepth = some s.pending.length

/-- `PENDING` holds fewer than `PENDQ_DEPTH` entries, or `PENDQ_DEPTH` is unbounded (R140). -/
def queueHasRoom (s : State) : Prop := ∀ d, s.cfg.pendqDepth = some d → s.pending.length < d

/-- A frame is partly rendered: `SEQ` is `ScanlineInProgress(_)` (60_exceptions.md R345). -/
def midFrame (s : State) : Prop := ∃ n, s.seq = .scanlineInProgress n

/-- Executes commands one after another, each to completion (20_memory.md R89). -/
def execAll : List Instr → State → Host.Outcome State Fault Refusal
  | [], s => .next s
  | i :: is, s =>
    match exec i s with
    | .next t => execAll is t
    | .fault r => .fault r
    | .refused r => .refused r

/-- The entries of `PENDING` that a command commits: `RENDER_LINE n` those tagged n + 1, `RENDER_FRAME` those tagged
1 to `H_LINES` − 1, any other command none (20_memory.md R96; 47_render_commands.md R321, R326). -/
def commits (i : Instr) (s : State) (e : PendingWrite) : Prop :=
  (∃ n, i = .renderLine n ∧ e.eff.toNat = n.toNat + 1) ∨
    (i = .renderFrame ∧ 1 ≤ e.eff.toNat ∧ e.eff.toNat < s.cfg.hLines)

/-- The commands `RENDER_LINE n`, `RENDER_LINE n+1`, ..., `k` of them. -/
def lineCommands : Nat → Nat → List Instr
  | _, 0 => []
  | n, k + 1 => .renderLine (BitVec.ofNat 16 n) :: lineCommands (n + 1) k

/-! ## The tiles of a scanline's sprites -/

/-- The sprites accepted on scanline `y`: the first 32 entries in range, in index order (42_sprite_evaluator.md R182,
R186). -/
def acceptedSprites (sc : Scene) (y : Nat) : List Nat :=
  ((List.range oamSize).filter (fun i => spriteInRange sc (sprite sc.mem i) y)).take spriteLimit

/-- The tiles of sprite `i` that have a pixel inside `XRANGE`, left to right: each is (sprite, column offset) (R188). -/
def onScreenTiles (sc : Scene) (i : Nat) : List (Nat × Nat) :=
  ((tileCols ((sprite sc.mem i).dim sc).w).filter
    (fun (col : Nat) => tileOnScreen sc.cfg ((sprite sc.mem i).x + (col : Int)))).map (fun col => (i, col))

/-- The tiles the accepted sprites have on scanline `y`, in the order of fetching; the first 34 are fetched (R188). -/
def lineTiles (sc : Scene) (y : Nat) : List (Nat × Nat) := (acceptedSprites sc y).flatMap (onScreenTiles sc)

/-- The pixel a tile of a sprite gives at X on scanline `y`: `none` where the tile does not reach or is transparent
(R187, R189, R190). -/
def tileDot (sc : Scene) (y : Nat) (x : Int) (t : Nat × Nat) : Option ObjPixel :=
  let e := sprite sc.mem t.1
  let d := e.dim sc
  let p := x - (e.x + (t.2 : Int))
  let a := objTileAddr sc.regs e.low ((if e.low.hflip then d.w - 8 - t.2 else t.2) / 8)
    (bitmapRow e.low.vflip d.h (spriteRow e y))
  let pix := objPix (readVram sc.mem a) (readVram sc.mem ((a + 8) % vramSize)) (objBit e.low.hflip p.toNat)
  if 0 ≤ p ∧ p < 8 ∧ pix ≠ 0 then some (objPixel e.low pix) else none

end Sys2Proof.Machine
end

