-- ==== Sys2Proof/Certificates/Slice0/Obligations.lean ====
section
/-! DEFINITION. The statements about the machine, for the provers. Each docstring names the rules of spec/ it rests
on; where a clause rests on a choice of the model, it names the log entry. -/

open Sys2Proof Sys2Proof.Machine

/-- After reset every register is 0, SEQ is Idle, PENDING is empty (R371). The clause that names Config.default, the
sizes of preset 0, rests on log entry 2. -/
def Obligations.ResetLeavesDefinedState : Prop :=
  ∀ (c : Config) (m : Memory) (fb : FrameBuf), ∀ g, g = (State.resetWith c m fb).regs →
    (∀ r, getReg g r = 0) ∧ (State.resetWith c m fb).seq = .idle ∧ (State.resetWith c m fb).next = 0 ∧
    (State.resetWith c m fb).pending = [] ∧ g.bright = 0 ∧ bgMode g = 0 ∧
    (∀ l, mosaicN g l = 1 ∧ mapBase g l = 0 ∧ mapW g l = 32 ∧ mapH g l = 32 ∧ tileSize g l = 8 ∧ chrBase g l = 0 ∧
      bgHofs g l = 0 ∧ bgVofs g l = 0) ∧
    objDim Config.default (objPreset g) false = { w := 8, h := 8 } ∧
    objDim Config.default (objPreset g) true = { w := 16, h := 16 } ∧ nameBase g = 0 ∧
    g.m7a = 0 ∧ g.m7b = 0 ∧ g.m7c = 0 ∧ g.m7d = 0 ∧ g.m7x = 0 ∧ g.m7y = 0 ∧ m7Repeat g = 0 ∧ m7Extbg g = false ∧
    g.wh0 = 0 ∧ g.wh1 = 0 ∧ g.wh2 = 0 ∧ g.wh3 = 0 ∧ (∀ k x, win g k x = false) ∧
    g.tm = 0 ∧ g.ts = 0 ∧ g.tmw = 0 ∧ g.tsw = 0 ∧ cgDirect g = false ∧
    (∀ x, clipAt g x = false ∧ preventAt g x = false) ∧ (∀ cell p, mathOn g cell p = false) ∧
    g.fixedcolor = 0 ∧ g.interlace = 0

/-- The state after reset meets the machine's invariant (initial memories: log entries 3 and 4)
(70_reset_and_hazards.md R371 to R373, 10_state.md R60 to R65). -/
def Obligations.ResetMeetsInvariant : Prop :=
  (∀ (c : Config) (m : Memory) (fb : FrameBuf), c.wf = true → m.wf = true → fbWf c fb = true →
      (State.resetWith c m fb).Inv) ∧ State.reset.Inv

/-- Every step keeps the machine's invariant (10_state.md R60 to R65, 20_memory.md R94 to R96, 47_render_commands.md
R321). -/
def Obligations.StepKeepsInvariant : Prop :=
  ∀ s t : State, s.Inv → step s = .next t → t.Inv

/-- Every reachable state meets the invariant, and NEXT is below H_LINES (10_state.md R60 to R62,
70_reset_and_hazards.md R370, 00_scope.md R12). -/
def Obligations.ReachableStatesAreLegal : Prop :=
  ∀ s : State, Reachable s → s.Inv ∧ s.next < s.cfg.hLines

/-- A step takes the next command from the port and executes it (00_scope.md R12, 30_encoding.md R116). -/
def Obligations.StepRunsTheDecodedCommand : Prop :=
  ∀ (s : State) (i : Instr) (rest : List Word), decode s.stream = .command i rest →
    step s = exec i { s with stream := rest }

/-- With no whole command at the port a step changes nothing (log entry 5) (00_scope.md R12, 60_exceptions.md R364).
-/
def Obligations.StepWithoutACommandIsIdle : Prop :=
  ∀ s : State, decode s.stream = .nothing ∨ decode s.stream = .waiting → step s = .next s

/-- Exactly the headers of R343 are E_DECODE; they write nothing and consume their payload (R343). -/
def Obligations.IllegalHeadersAreRejected : Prop :=
  ∀ (s : State) (w : Word) (ws : List Word) (p : Nat), s.stream = w :: ws →
    p = (if w.extractLsb' 56 8 = 1#8 then ((w.extractLsb' 0 16).toNat + 3) / 4 else 0) → p ≤ ws.length →
    ∀ bad, bad = ((w.extractLsb' 56 8).toNat ∉ [0x00, 0x01, 0x02, 0x03, 0x04, 0x10, 0x11, 0x12] ∨
        ((w.extractLsb' 56 8).toNat ∈ [0x00, 0x11, 0x12] ∧ w.extractLsb' 0 56 ≠ 0) ∨
        ((w.extractLsb' 56 8).toNat = 0x10 ∧ w.extractLsb' 16 40 ≠ 0) ∨
        ((w.extractLsb' 56 8).toNat ∈ [0x01, 0x02, 0x04] ∧ w.extractLsb' 32 15 ≠ 0) ∨
        ((w.extractLsb' 56 8).toNat = 0x03 ∧ w.extractLsb' 34 5 ≠ 0) ∨
        ((w.extractLsb' 56 8).toNat = 0x04 ∧ 0x2D < (w.extractLsb' 16 16).toNat)) →
      (bad → step s = .next { s with stream := ws.drop p, resp := some (.rej .eDecode) }) ∧
      (¬ bad → ∃ i, decode s.stream = .command i (ws.drop p))

/-- No step and no command faults or is refused (log entries 5, 8) (60_exceptions.md R341, R349, R352,
47_render_commands.md R332, 93_implementation_defined.md). A rejection is a next state (log entry 8, DEDUCED); that a
step with an empty or incomplete port exists, and answers next, is the model's choice (log entry 5). -/
def Obligations.EveryStepCompletes : Prop :=
  (∀ s : State, completes (step s)) ∧ ∀ (i : Instr) (s : State), completes (exec i s)

/-- The words of the spec's encoding examples decode to, and encode, the commands it names (R120). -/
def Obligations.SpecExampleWords : Prop :=
  decode [0x0400000000010001] = .command (.wrBgmode 0 1) [] ∧ encode (.wrBgmode 0 1) = [0x0400000000010001] ∧
    decode [0x02000000000503E0] = .command (.wrCgram 0 5 0x03E0) [] ∧
    encode (.wrCgram 0 5 0x03E0) = [0x02000000000503E0] ∧
    decode [0x0406000000000008] = .command (.wrBright 12 8) [] ∧ encode (.wrBright 12 8) = [0x0406000000000008] ∧
    decode [0x100000000000000A] = .command (.renderLine 10) [] ∧ encode (.renderLine 10) = [0x100000000000000A] ∧
    decode [0x1100000000000000] = .command .renderFrame [] ∧ encode .renderFrame = [0x1100000000000000] ∧
    decode [0x030000000002140A] =
      .command (.wrOam 0 0 { size := false, vflip := false, hflip := false, prio := 0, pal := 0, name := false,
                             tile := 1, y := 10, x := 10 }) [] ∧
    encode (.wrOam 0 0 { size := false, vflip := false, hflip := false, prio := 0, pal := 0, name := false,
                         tile := 1, y := 10, x := 10 }) = [0x030000000002140A] ∧
    decode [0x0100000010000005, 0x00FF00FF00FF00FF, 0x00000000000000FF] =
      .command (.wrVram 0 0x1000 [0x00FF, 0x00FF, 0x00FF, 0x00FF, 0x00FF]) [] ∧
    encode (.wrVram 0 0x1000 [0x00FF, 0x00FF, 0x00FF, 0x00FF, 0x00FF]) =
      [0x0100000010000005, 0x00FF00FF00FF00FF, 0x00000000000000FF]

/-- Decoding the encoding of any well-formed command gives it back, and leaves what follows (30_encoding.md R111,
R112, R114, R116, 46_register_write_commands.md R260). -/
def Obligations.DecodeOfEncodeIsTheCommand : Prop :=
  ∀ (i : Instr) (rest : List Word), i.wellFormed = true → decode (encode i ++ rest) = .command i rest

/-- A header that decodes is the header of the command it decodes to (30_encoding.md R111, R112, R115, R116). -/
def Obligations.EncodeOfDecodeIsTheHeader : Prop :=
  ∀ (w : Word) (ws : List Word) (i : Instr) (rest : List Word), decode (w :: ws) = .command i rest →
    i.wellFormed = true ∧ (encode i).head? = some w ∧
    rest = ws.drop (if w.extractLsb' 56 8 = 1#8 then ((w.extractLsb' 0 16).toNat + 3) / 4 else 0) ∧
    ((∀ e o d, i ≠ .wrVram e o d) → encode i = [w] ∧ rest = ws)

/-- A word travels as 8 bytes, least significant first, and reads back (R113). -/
def Obligations.StreamByteOrder : Prop :=
  (∀ (w : Word) (k : Nat), k < 8 → (bytesOfWord w)[k]? = some (w.extractLsb' (8 * k) 8)) ∧
    (∀ w : Word, (bytesOfWord w).length = 8) ∧ ∀ ws : List Word, wordsOfBytes (bytesOfWords ws) = ws

/-- How many words a command takes, and which lane each data word of WR_VRAM comes from (log entries 5, 13)
(30_encoding.md R116, 40_memory_write_commands.md R142). The first clause, that a missing payload leaves the port
waiting, is the model's choice (log entry 5); that nonzero unused lanes are accepted is log entry 13 (DEDUCED). -/
def Obligations.PayloadOfWrVram : Prop :=
  ∀ (w : Word) (ws : List Word) (p : Nat),
    p = (if w.extractLsb' 56 8 = 1#8 then ((w.extractLsb' 0 16).toNat + 3) / 4 else 0) →
    (ws.length < p → decode (w :: ws) = .waiting) ∧
    (p ≤ ws.length →
      (∃ i, decode (w :: ws) = .command i (ws.drop p)) ∨ (∃ e, decode (w :: ws) = .illegal e (ws.drop p))) ∧
    (p ≤ ws.length → w.extractLsb' 56 8 = 1#8 → w.extractLsb' 32 15 = 0#15 →
      ∃ data : List VWord,
        decode (w :: ws) = .command (.wrVram (w.extractLsb' 47 9) (w.extractLsb' 16 16) data) (ws.drop p) ∧
        data.length = (w.extractLsb' 0 16).toNat ∧
        ∀ k, k < data.length → data[k]? = (ws[k / 4]?).map (fun q => q.extractLsb' (16 * (k % 4)) 16))

/-- NOP answers OK in every state and changes nothing; only the all-zero word is NOP (R141). -/
def Obligations.NopCompletes : Prop :=
  (∀ s : State, exec .nop s = .next { s with resp := some .ok }) ∧
    (∀ ws, decode (0x0000000000000000 :: ws) = .command .nop ws) ∧
    ∀ (w : Word) (ws : List Word), w.extractLsb' 56 8 = 0#8 → w.extractLsb' 0 56 ≠ 0#56 →
      ∃ e, decode (w :: ws) = .illegal e ws

/-- WR_VRAM: rejected, applied at once, or queued; its result and its frame (40_memory_write_commands.md R140, R142,
20_memory.md R87, R94, R95, 60_exceptions.md R344, R346, R347). -/
def Obligations.WrVramEffects : Prop :=
  ∀ (eff : Tag) (off : BitVec 16) (data : List VWord) (s : State),
    (32768 < off.toNat + data.length → exec (.wrVram eff off data) s = .next { s with resp := some (.rej .eRange) }) ∧
    (off.toNat + data.length ≤ 32768 → ¬ tagLegal s eff →
      exec (.wrVram eff off data) s = .next { s with resp := some (.rej .eTag) }) ∧
    (off.toNat + data.length ≤ 32768 → tagNow s eff →
      ∃ m : Memory, exec (.wrVram eff off data) s = .next { s with mem := m, resp := some .ok } ∧
        (∀ k v, data[k]? = some v → readVram m (off.toNat + k) = v) ∧
        (∀ a, a < off.toNat ∨ off.toNat + data.length ≤ a → readVram m a = readVram s.mem a) ∧
        m.cgram = s.mem.cgram ∧ m.oamLow = s.mem.oamLow ∧ m.oamHigh = s.mem.oamHigh) ∧
    (off.toNat + data.length ≤ 32768 → tagLater s eff → queueIsFull s →
      exec (.wrVram eff off data) s = .next { s with resp := some (.rej .eFull) }) ∧
    (off.toNat + data.length ≤ 32768 → tagLater s eff → queueHasRoom s →
      exec (.wrVram eff off data) s =
        .next { s with resp := some .ok,
                        pending := s.pending ++ [{ eff := eff, act := .vram off.toNat data }] })

/-- WR_CGRAM: rejected, applied at once, or queued; its result and its frame (40_memory_write_commands.md R140, R143,
30_encoding.md R127, 60_exceptions.md R344, R346, R347). -/
def Obligations.WrCgramEffects : Prop :=
  ∀ (eff : Tag) (idx val : BitVec 16) (s : State),
    (255 < idx.toNat → exec (.wrCgram eff idx val) s = .next { s with resp := some (.rej .eRange) }) ∧
    (idx.toNat ≤ 255 → ¬ tagLegal s eff →
      exec (.wrCgram eff idx val) s = .next { s with resp := some (.rej .eTag) }) ∧
    (idx.toNat ≤ 255 → tagNow s eff →
      ∃ m : Memory, exec (.wrCgram eff idx val) s = .next { s with mem := m, resp := some .ok } ∧
        readCgram m idx.toNat = val.extractLsb' 0 15 ∧
        (∀ j, j ≠ idx.toNat → readCgram m j = readCgram s.mem j) ∧
        m.vram = s.mem.vram ∧ m.oamLow = s.mem.oamLow ∧ m.oamHigh = s.mem.oamHigh) ∧
    (idx.toNat ≤ 255 → tagLater s eff → queueIsFull s →
      exec (.wrCgram eff idx val) s = .next { s with resp := some (.rej .eFull) }) ∧
    (idx.toNat ≤ 255 → tagLater s eff → queueHasRoom s →
      exec (.wrCgram eff idx val) s =
        .next { s with resp := some .ok,
                        pending := s.pending ++ [{ eff := eff, act := .cgram idx.toNat (val.extractLsb' 0 15) }] })

/-- WR_OAM: rejected, applied at once, or queued; its result and its frame (40_memory_write_commands.md R140, R144,
10_state.md R26, 30_encoding.md R114, 60_exceptions.md R344, R346, R347). -/
def Obligations.WrOamEffects : Prop :=
  ∀ (eff : Tag) (idx : BitVec 8) (f : OamFields) (low : OamLow) (high : OamHigh) (s : State),
    low = { xlo := f.x.extractLsb' 0 8, y := f.y, tile := f.tile, name := f.name, pal := f.pal, prio := f.prio,
            hflip := f.hflip, vflip := f.vflip } →
    high = { xhi := f.x.getLsbD 8, size := f.size } →
    (127 < idx.toNat → exec (.wrOam eff idx f) s = .next { s with resp := some (.rej .eRange) }) ∧
    (idx.toNat ≤ 127 → ¬ tagLegal s eff →
      exec (.wrOam eff idx f) s = .next { s with resp := some (.rej .eTag) }) ∧
    (idx.toNat ≤ 127 → tagNow s eff →
      ∃ m : Memory, exec (.wrOam eff idx f) s = .next { s with mem := m, resp := some .ok } ∧
        readLow m idx.toNat = low ∧ readHigh m idx.toNat = high ∧ (sprite m idx.toNat).x = f.x.toInt ∧
        (∀ j, j ≠ idx.toNat → readLow m j = readLow s.mem j ∧ readHigh m j = readHigh s.mem j) ∧
        m.vram = s.mem.vram ∧ m.cgram = s.mem.cgram) ∧
    (idx.toNat ≤ 127 → tagLater s eff → queueIsFull s →
      exec (.wrOam eff idx f) s = .next { s with resp := some (.rej .eFull) }) ∧
    (idx.toNat ≤ 127 → tagLater s eff → queueHasRoom s →
      exec (.wrOam eff idx f) s =
        .next { s with resp := some .ok,
                        pending := s.pending ++ [{ eff := eff, act := .oam idx.toNat low high }] })

/-- WR_REG with eff = NEXT stores val into the named register and touches nothing else: brightness, mode, mosaic,
sprites, Mode 7 (46_register_write_commands.md R260, R261, R263 to R266, R283 to R290). -/
def Obligations.WrRegPictureObjectsMode7 : Prop :=
  ∀ (eff : Tag) (val : BitVec 16) (s : State), tagNow s eff →
    exec (.wrBright eff val) s =
      .next { s with regs := { s.regs with bright := val.extractLsb' 0 4 }, resp := some .ok } ∧
    exec (.wrBgmode eff val) s =
      .next { s with regs := { s.regs with bgmode := val.extractLsb' 0 4 }, resp := some .ok } ∧
    exec (.wrMosaic eff val) s =
      .next { s with regs := { s.regs with mosaic := val.extractLsb' 0 8 }, resp := some .ok } ∧
    exec (.wrMosaicph eff val) s =
      .next { s with regs := { s.regs with mosaicph := val.extractLsb' 0 8 }, resp := some .ok } ∧
    exec (.wrObsel eff val) s =
      .next { s with regs := { s.regs with obsel := val.extractLsb' 0 8 }, resp := some .ok } ∧
    exec (.wrM7sel eff val) s =
      .next { s with regs := { s.regs with m7sel := val.extractLsb' 0 3 }, resp := some .ok } ∧
    exec (.wrM7a eff val) s =
      .next { s with regs := { s.regs with m7a := val }, resp := some .ok } ∧
    exec (.wrM7b eff val) s =
      .next { s with regs := { s.regs with m7b := val }, resp := some .ok } ∧
    exec (.wrM7c eff val) s =
      .next { s with regs := { s.regs with m7c := val }, resp := some .ok } ∧
    exec (.wrM7d eff val) s =
      .next { s with regs := { s.regs with m7d := val }, resp := some .ok } ∧
    exec (.wrM7x eff val) s =
      .next { s with regs := { s.regs with m7x := val }, resp := some .ok } ∧
    exec (.wrM7y eff val) s =
      .next { s with regs := { s.regs with m7y := val }, resp := some .ok }

/-- WR_REG with eff = NEXT stores val into the named register and touches nothing else: tilemap and bitmap bases
(46_register_write_commands.md R260, R261, R267 to R274). -/
def Obligations.WrRegBackgroundBases : Prop :=
  ∀ (eff : Tag) (val : BitVec 16) (s : State), tagNow s eff →
    exec (.wrBg1sc eff val) s =
      .next { s with regs := { s.regs with bg1sc := val.extractLsb' 0 9 }, resp := some .ok } ∧
    exec (.wrBg2sc eff val) s =
      .next { s with regs := { s.regs with bg2sc := val.extractLsb' 0 9 }, resp := some .ok } ∧
    exec (.wrBg3sc eff val) s =
      .next { s with regs := { s.regs with bg3sc := val.extractLsb' 0 9 }, resp := some .ok } ∧
    exec (.wrBg4sc eff val) s =
      .next { s with regs := { s.regs with bg4sc := val.extractLsb' 0 9 }, resp := some .ok } ∧
    exec (.wrBg1nba eff val) s =
      .next { s with regs := { s.regs with bg1nba := val.extractLsb' 0 4 }, resp := some .ok } ∧
    exec (.wrBg2nba eff val) s =
      .next { s with regs := { s.regs with bg2nba := val.extractLsb' 0 4 }, resp := some .ok } ∧
    exec (.wrBg3nba eff val) s =
      .next { s with regs := { s.regs with bg3nba := val.extractLsb' 0 4 }, resp := some .ok } ∧
    exec (.wrBg4nba eff val) s =
      .next { s with regs := { s.regs with bg4nba := val.extractLsb' 0 4 }, resp := some .ok }

/-- WR_REG with eff = NEXT stores val into the named register and touches nothing else: background scroll
(46_register_write_commands.md R260, R261, R275 to R282). -/
def Obligations.WrRegBackgroundScroll : Prop :=
  ∀ (eff : Tag) (val : BitVec 16) (s : State), tagNow s eff →
    exec (.wrBg1hofs eff val) s =
      .next { s with regs := { s.regs with bg1hofs := val }, resp := some .ok } ∧
    exec (.wrBg2hofs eff val) s =
      .next { s with regs := { s.regs with bg2hofs := val }, resp := some .ok } ∧
    exec (.wrBg3hofs eff val) s =
      .next { s with regs := { s.regs with bg3hofs := val }, resp := some .ok } ∧
    exec (.wrBg4hofs eff val) s =
      .next { s with regs := { s.regs with bg4hofs := val }, resp := some .ok } ∧
    exec (.wrBg1vofs eff val) s =
      .next { s with regs := { s.regs with bg1vofs := val }, resp := some .ok } ∧
    exec (.wrBg2vofs eff val) s =
      .next { s with regs := { s.regs with bg2vofs := val }, resp := some .ok } ∧
    exec (.wrBg3vofs eff val) s =
      .next { s with regs := { s.regs with bg3vofs := val }, resp := some .ok } ∧
    exec (.wrBg4vofs eff val) s =
      .next { s with regs := { s.regs with bg4vofs := val }, resp := some .ok }

/-- WR_REG with eff = NEXT stores val into the named register and touches nothing else: window edges and window
selects (46_register_write_commands.md R260, R261, R291 to R300). -/
def Obligations.WrRegWindows : Prop :=
  ∀ (eff : Tag) (val : BitVec 16) (s : State), tagNow s eff →
    exec (.wrWh0 eff val) s =
      .next { s with regs := { s.regs with wh0 := val.extractLsb' 0 8 }, resp := some .ok } ∧
    exec (.wrWh1 eff val) s =
      .next { s with regs := { s.regs with wh1 := val.extractLsb' 0 8 }, resp := some .ok } ∧
    exec (.wrWh2 eff val) s =
      .next { s with regs := { s.regs with wh2 := val.extractLsb' 0 8 }, resp := some .ok } ∧
    exec (.wrWh3 eff val) s =
      .next { s with regs := { s.regs with wh3 := val.extractLsb' 0 8 }, resp := some .ok } ∧
    exec (.wrWselBg1 eff val) s =
      .next { s with regs := { s.regs with wselBg1 := val.extractLsb' 0 6 }, resp := some .ok } ∧
    exec (.wrWselBg2 eff val) s =
      .next { s with regs := { s.regs with wselBg2 := val.extractLsb' 0 6 }, resp := some .ok } ∧
    exec (.wrWselBg3 eff val) s =
      .next { s with regs := { s.regs with wselBg3 := val.extractLsb' 0 6 }, resp := some .ok } ∧
    exec (.wrWselBg4 eff val) s =
      .next { s with regs := { s.regs with wselBg4 := val.extractLsb' 0 6 }, resp := some .ok } ∧
    exec (.wrWselObj eff val) s =
      .next { s with regs := { s.regs with wselObj := val.extractLsb' 0 6 }, resp := some .ok } ∧
    exec (.wrWselCol eff val) s =
      .next { s with regs := { s.regs with wselCol := val.extractLsb' 0 6 }, resp := some .ok }

/-- WR_REG with eff = NEXT stores val into the named register and touches nothing else: screen enables, colour math,
fixed colour, interlace (46_register_write_commands.md R260, R261, R301 to R308). -/
def Obligations.WrRegScreensColourMath : Prop :=
  ∀ (eff : Tag) (val : BitVec 16) (s : State), tagNow s eff →
    exec (.wrTm eff val) s =
      .next { s with regs := { s.regs with tm := val.extractLsb' 0 5 }, resp := some .ok } ∧
    exec (.wrTs eff val) s =
      .next { s with regs := { s.regs with ts := val.extractLsb' 0 5 }, resp := some .ok } ∧
    exec (.wrTmw eff val) s =
      .next { s with regs := { s.regs with tmw := val.extractLsb' 0 5 }, resp := some .ok } ∧
    exec (.wrTsw eff val) s =
      .next { s with regs := { s.regs with tsw := val.extractLsb' 0 5 }, resp := some .ok } ∧
    exec (.wrCgwsel eff val) s =
      .next { s with regs := { s.regs with cgwsel := val.extractLsb' 0 8 }, resp := some .ok } ∧
    exec (.wrCgadsub eff val) s =
      .next { s with regs := { s.regs with cgadsub := val.extractLsb' 0 8 }, resp := some .ok } ∧
    exec (.wrFixedcolor eff val) s =
      .next { s with regs := { s.regs with fixedcolor := val.extractLsb' 0 15 }, resp := some .ok } ∧
    exec (.wrInterlace eff val) s =
      .next { s with regs := { s.regs with interlace := val.extractLsb' 0 1 }, resp := some .ok }

/-- A register keeps the low bits of val, and no WR_REG is rejected for its value (R261). -/
def Obligations.RegisterValuesAreTruncated : Prop :=
  ∀ (r : RegName) (eff : Tag) (val : BitVec 16) (s : State),
    (tagNow s eff → ∃ t, exec (regInstr r eff val) s = .next t ∧
      (getReg t.regs r).toNat = val.toNat % 2 ^ regWidth r ∧ ∀ r', r' ≠ r → getReg t.regs r' = getReg s.regs r') ∧
    ∀ val' : BitVec 16, ∃ t t', exec (regInstr r eff val) s = .next t ∧ exec (regInstr r eff val') s = .next t' ∧
      t.resp = t'.resp

/-- WR_REG of any register: E_TAG, E_FULL, or appended to PENDING (46_register_write_commands.md R260,
40_memory_write_commands.md R140, 60_exceptions.md R346, R347). -/
def Obligations.RegisterWritesRejectedOrQueued : Prop :=
  ∀ (r : RegName) (eff : Tag) (val : BitVec 16) (s : State),
    (¬ tagLegal s eff → exec (regInstr r eff val) s = .next { s with resp := some (.rej .eTag) }) ∧
    (tagLater s eff → queueIsFull s → exec (regInstr r eff val) s = .next { s with resp := some (.rej .eFull) }) ∧
    (tagLater s eff → queueHasRoom s →
      exec (regInstr r eff val) s =
        .next { s with pending := s.pending ++ [{ eff := eff, act := .reg r val }], resp := some .ok })

/-- As RENDER_LINE n completes, exactly the writes tagged n+1 are applied, in issue order (R96). -/
def Obligations.CommitPoint : Prop :=
  ∀ (s : State) (n : BitVec 16), s.Inv → n.toNat = s.next →
    (n.toNat + 1 < s.cfg.hLines → ∃ t u, exec (.renderLine n) s = .next t ∧
      u = (s.pending.filter (fun e => e.eff.toNat == n.toNat + 1)).foldl (fun v e => applyAct e.act v) s ∧
      t.next = n.toNat + 1 ∧ t.pending = s.pending.filter (fun e => e.eff.toNat != n.toNat + 1) ∧
      t.mem = u.mem ∧ t.regs = u.regs) ∧
    (n.toNat + 1 = s.cfg.hLines → ∃ t, exec (.renderLine n) s = .next t ∧
      t.next = 0 ∧ t.pending = [] ∧ t.mem = s.mem ∧ t.regs = s.regs)

/-- Scanlines rendered before a queued write's boundary are as if it had not been issued (20_memory.md R95, R96, R99).
-/
def Obligations.QueuedWriteIsInvisibleBeforeItsBoundary : Prop :=
  ∀ (s : State) (e : PendingWrite) (k : Nat), tagLater s e.eff → s.next + k < e.eff.toNat →
    ∃ t, execAll (lineCommands s.next k) s = .next t ∧
      execAll (lineCommands s.next k) { s with pending := s.pending ++ [e] } =
        .next { t with pending := t.pending ++ [e] }

/-- A register write tagged for a later scanline is in force exactly from the boundary before that scanline on
(20_memory.md R94 to R96, R99, 70_reset_and_hazards.md R382). -/
def Obligations.QueuedRegisterWriteAppliesAtItsTag : Prop :=
  ∀ (s : State) (r : RegName) (eff : Tag) (val : BitVec 16), tagLater s eff → queueHasRoom s →
    (∀ k, s.next + k < eff.toNat → ∃ t u, execAll (regInstr r eff val :: lineCommands s.next k) s = .next t ∧
      execAll (lineCommands s.next k) s = .next u ∧ t.next = s.next + k ∧ t.regs = u.regs ∧ t.mem = u.mem ∧
      t.fb = u.fb) ∧
    ∃ t, execAll (regInstr r eff val :: lineCommands s.next (eff.toNat - s.next)) s = .next t ∧
      t.next = eff.toNat ∧ (getReg t.regs r).toNat = val.toNat % 2 ^ regWidth r

/-- RENDER_LINE n: E_SEQ unless n = NEXT, else OK_ROW with the row just written (47_render_commands.md R321, R322,
30_encoding.md R117). -/
def Obligations.RenderLineAnswersItsRow : Prop :=
  ∀ (n : BitVec 16) (s : State),
    (n.toNat ≠ s.next → exec (.renderLine n) s = .next { s with resp := some (.rej .eSeq) }) ∧
    (n.toNat = s.next → ∃ t, exec (.renderLine n) s = .next t ∧
      t.resp = some (.okRow (fbRow t.cfg t.fb n.toNat)) ∧ (fbRow t.cfg t.fb n.toNat).length = s.cfg.width)

/-- What RENDER_LINE writes: its row, the scratch buffers with what the pipeline gives them, SEQ, and the writes due
at its boundary (R323). The contents of the scratch buffers are those of R218 and R321; the definitions lineObj and
mergeCell are what the statements on sprites, layers and ranks are about. -/
def Obligations.LineWritesOnlyItsRow : Prop :=
  ∀ (n : BitVec 16) (s : State), n.toNat = s.next → ∃ t, exec (.renderLine n) s = .next t ∧
    t.cfg = s.cfg ∧ t.stream = s.stream ∧
    (∀ y, y ≠ n.toNat → fbRow t.cfg t.fb y = fbRow s.cfg s.fb y) ∧
    (fbRow t.cfg t.fb n.toNat).length = s.cfg.width ∧ t.objbuf.length = s.cfg.width ∧
    t.mainbuf.length = s.cfg.width ∧ t.subbuf.length = s.cfg.width ∧
    t.seq = (if n.toNat + 1 = s.cfg.hLines then .frameComplete else .scanlineInProgress n.toNat) ∧
    t.objbuf = lineObj s.scene n.toNat ∧
    (∀ (col : Nat) (x : Int), col < s.cfg.width → x = (col : Int) - (s.cfg.padL : Int) →
      ∃ o m b, t.objbuf[col]? = some o ∧ t.mainbuf[col]? = some m ∧ t.subbuf[col]? = some b ∧
        m = mergeCell s.scene .main o x n.toNat ∧ b = mergeCell s.scene .sub o x n.toNat ∧
        (fbRow t.cfg t.fb n.toNat)[col]? = some (outputPixel s.scene m b x)) ∧
    ((∀ e ∈ s.pending, e.eff.toNat ≠ n.toNat + 1) → t.mem = s.mem ∧ t.regs = s.regs ∧ t.pending = s.pending)

/-- Two states with the same memories, registers, parameters and NEXT render the same row (47_render_commands.md R330,
10_state.md R67, R63, R64). -/
def Obligations.LineDependsOnTheSceneOnly : Prop :=
  ∀ (n : BitVec 16) (s s' : State), s.scene = s'.scene → n.toNat = s.next → n.toNat = s'.next →
    ∃ t t', exec (.renderLine n) s = .next t ∧ exec (.renderLine n) s' = .next t' ∧ t.resp = t'.resp ∧
      fbRow t.cfg t.fb n.toNat = fbRow t'.cfg t'.fb n.toNat ∧
      t.objbuf = t'.objbuf ∧ t.mainbuf = t'.mainbuf ∧ t.subbuf = t'.subbuf

/-- Rendering the same frame twice gives the identical frame buffer (47_render_commands.md R330, 10_state.md R67). -/
def Obligations.SameSceneSameFrame : Prop :=
  ∀ s s' : State, s.Inv → s'.Inv → s.scene = s'.scene → s.pending = [] → s'.pending = [] →
    ¬ midFrame s → ¬ midFrame s' →
    ∃ t t', exec .renderFrame s = .next t ∧ exec .renderFrame s' = .next t' ∧ t.fb = t'.fb ∧ t.resp = t'.resp

/-- RENDER_FRAME is RENDER_LINE 0 .. H_LINES-1 with one response; E_SEQ in mid-frame (R326). The example's INIT_MEM =
zero is the choice of log entry 3; the clause holds for any initial memories. -/
def Obligations.RenderFrameIsItsLines : Prop :=
  (∀ s : State, midFrame s → exec .renderFrame s = .next { s with resp := some (.rej .eSeq) }) ∧
    (∀ s : State, ¬ midFrame s → s.cfg.hLines ≤ 65536 →
      ∃ u, execAll (lineCommands 0 s.cfg.hLines) s = .next u ∧
        exec .renderFrame s =
          .next { u with resp := some (.okFrame u.fb s.cfg.width s.cfg.hLines s.cfg.pitch) } ∧
        (s.Inv → u.seq = .frameComplete ∧ u.pending = [])) ∧
    encode .renderFrame = [0x1100000000000000] ∧
    (∀ (w : Word) (ws : List Word), w.extractLsb' 56 8 = 0x11#8 → w.extractLsb' 0 56 ≠ 0#56 →
      ∃ e, decode (w :: ws) = .illegal e ws) ∧
    ∀ (c : Config) (m : Memory) (f : FrameBuf), c.wf = true → m.wf = true → fbWf c f = true →
      ∃ t, exec .renderFrame (State.resetWith c m f) = .next t ∧
      ∀ y col, y < c.hLines → col < c.width → fbPixel c t.fb y col = { r := 0, g := 0, b := 0, a := 255 }

/-- GET_FRAME answers the frame buffer as it stands, in every state, and changes nothing (47_render_commands.md R327,
30_encoding.md R117). -/
def Obligations.GetFrameAnswersTheFrameBuffer : Prop :=
  ∀ s : State, exec .getFrame s =
    .next { s with resp := some (.okFrame s.fb s.cfg.width s.cfg.hLines s.cfg.pitch) }

/-- The sequencer's transition table, every command in every state (one scanline: log entry 18) (47_render_commands.md
R321, R324, R326, R327, R328). For H_LINES = 1 the table of R328 has no last-line case after FrameComplete: that SEQ
becomes FrameComplete there too is log entry 18 (DEDUCED from R321). -/
def Obligations.SequencerTransitions : Prop :=
  ∀ (i : Instr) (s : State), 1 ≤ s.cfg.hLines → ∃ t, exec i s = .next t ∧
    (∀ k, i = .renderLine k → k.toNat = s.next →
      (k.toNat + 1 = s.cfg.hLines → t.seq = .frameComplete) ∧
      (k.toNat + 1 ≠ s.cfg.hLines → t.seq = .scanlineInProgress k.toNat)) ∧
    (∀ k, i = .renderLine k → k.toNat ≠ s.next → t.seq = s.seq ∧ t.resp = some (.rej .eSeq)) ∧
    (i = .renderFrame → midFrame s → t.seq = s.seq ∧ t.resp = some (.rej .eSeq)) ∧
    (i = .renderFrame → ¬ midFrame s → t.seq = .frameComplete) ∧
    ((∀ k, i ≠ .renderLine k) → i ≠ .renderFrame → t.seq = s.seq)

/-- After reset any command may come first, and rendering gives black rows whatever the memories hold (R374). -/
def Obligations.FirstFrameAfterResetIsBlack : Prop :=
  ∀ (c : Config) (m : Memory) (fb : FrameBuf), c.wf = true → m.wf = true → fbWf c fb = true →
    (∀ i, completes (exec i (State.resetWith c m fb))) ∧
    (∃ t, exec (.renderLine 0) (State.resetWith c m fb) = .next t ∧
      t.resp = some (.okRow (List.replicate c.width { r := 0, g := 0, b := 0, a := 255 }))) ∧
    (∃ t, exec .renderFrame (State.resetWith c m fb) = .next t ∧
      ∀ y, y < c.hLines → fbRow c t.fb y = List.replicate c.width { r := 0, g := 0, b := 0, a := 255 })

/-- Every command has one response; a rejected one changes no state and leaves no trace (R341). -/
def Obligations.RejectedCommandsChangeNothing : Prop :=
  (∀ (i : Instr) (s : State), ∃ t v, exec i s = .next t ∧ t.resp = some v) ∧
    (∀ (i : Instr) (s t : State) (c : RejCode), exec i s = .next t → t.resp = some (.rej c) →
      t = { s with resp := some (.rej c) }) ∧
    (∀ (i : Instr) (s : State) (v : Option Response), exec i { s with resp := v } = exec i s) ∧
    ∀ (w : Word) (ws rest : List Word) (e : DecodeError), decode (w :: ws) = .illegal e rest →
      rest = ws.drop (if w.extractLsb' 56 8 = 1#8 then ((w.extractLsb' 0 16).toNat + 3) / 4 else 0)

/-- The first failing check decides the code: decode, range, tag or sequence, queue space (60_exceptions.md R348,
R342). -/
def Obligations.OrderOfChecks : Prop :=
  (∀ (s : State) (e : DecodeError) (rest : List Word), decode s.stream = .illegal e rest →
      step s = .next { s with stream := rest, resp := some (.rej .eDecode) }) ∧
    (∀ (s : State) (eff : Tag) (off idx val : BitVec 16) (data : List VWord) (i : BitVec 8) (f : OamFields),
      (32768 < off.toNat + data.length →
        exec (.wrVram eff off data) s = .next { s with resp := some (.rej .eRange) }) ∧
      (255 < idx.toNat → exec (.wrCgram eff idx val) s = .next { s with resp := some (.rej .eRange) }) ∧
      (127 < i.toNat → exec (.wrOam eff i f) s = .next { s with resp := some (.rej .eRange) })) ∧
    (∀ (s : State) (eff : Tag) (r : RegName) (off idx val : BitVec 16) (data : List VWord) (i : BitVec 8)
        (f : OamFields) (code : RejCode),
      (¬ tagLegal s eff ∧ code = .eTag) ∨ (tagLater s eff ∧ queueIsFull s ∧ code = .eFull) →
      exec (regInstr r eff val) s = .next { s with resp := some (.rej code) } ∧
      (off.toNat + data.length ≤ 32768 →
        exec (.wrVram eff off data) s = .next { s with resp := some (.rej code) }) ∧
      (idx.toNat ≤ 255 → exec (.wrCgram eff idx val) s = .next { s with resp := some (.rej code) }) ∧
      (i.toNat ≤ 127 → exec (.wrOam eff i f) s = .next { s with resp := some (.rej code) })) ∧
    (∀ (s : State) (n : BitVec 16), n.toNat ≠ s.next →
      exec (.renderLine n) s = .next { s with resp := some (.rej .eSeq) }) ∧
    (∀ s : State, midFrame s → exec .renderFrame s = .next { s with resp := some (.rej .eSeq) }) ∧
    (∀ s : State, exec (.wrCgram 500 300 0) s = .next { s with resp := some (.rej .eRange) }) ∧
    (∀ ws, ∃ e, decode (0x04FA000000400000 :: ws) = .illegal e ws) ∧
    RejCode.number .eDecode = 1 ∧ RejCode.number .eRange = 2 ∧ RejCode.number .eSeq = 3 ∧
    RejCode.number .eTag = 4 ∧ RejCode.number .eFull = 5

/-- Which command can change which part of the state (20_memory.md R81, R96, 10_state.md R21, R23, R25, R28, R65,
47_render_commands.md R321, R326). -/
def Obligations.OnlyTheNamedCommandWrites : Prop :=
  ∀ (i : Instr) (s t : State), exec i s = .next t →
    t.cfg = s.cfg ∧ t.stream = s.stream ∧
    ((∀ n, i ≠ .renderLine n) → i ≠ .renderFrame →
      t.fb = s.fb ∧ t.seq = s.seq ∧ t.objbuf = s.objbuf ∧ t.mainbuf = s.mainbuf ∧ t.subbuf = s.subbuf) ∧
    ((∀ e o d, i ≠ .wrVram e o d) → (∀ e ∈ s.pending, commits i s e → ∀ o d, e.act ≠ .vram o d) →
      t.mem.vram = s.mem.vram) ∧
    ((∀ e j v, i ≠ .wrCgram e j v) → (∀ e ∈ s.pending, commits i s e → ∀ j v, e.act ≠ .cgram j v) →
      t.mem.cgram = s.mem.cgram) ∧
    ((∀ e j f, i ≠ .wrOam e j f) → (∀ e ∈ s.pending, commits i s e → ∀ j l h, e.act ≠ .oam j l h) →
      t.mem.oamLow = s.mem.oamLow ∧ t.mem.oamHigh = s.mem.oamHigh) ∧
    ((∀ r e v, i ≠ regInstr r e v) → (∀ e ∈ s.pending, commits i s e → ∀ r v, e.act ≠ .reg r v) → t.regs = s.regs)

/-- The pixel RENDER_LINE writes at each column, from MAINBUF, SUBBUF, the colour window and the registers (R250,
R242). -/
def Obligations.OutputPixel : Prop :=
  ∀ (n : BitVec 16) (s : State) (col : Nat), n.toNat = s.next → col < s.cfg.width →
    ∃ t m b, exec (.renderLine n) s = .next t ∧ t.mainbuf[col]? = some m ∧ t.subbuf[col]? = some b ∧
      ∀ (cw clip prevent : Bool) (part : Nat → Bool → Bool) (v1 v2 : Colour15) (c1 c2 : Rgb) (px : Nat → Nat → Byte),
        (∀ w, part 0 w = false ∧ part 1 w = !w ∧ part 2 w = w ∧ part 3 w = true) →
        cw = win s.regs .backdrop ((col : Int) - (s.cfg.padL : Int)) →
        clip = part (s.regs.cgwsel.extractLsb' 6 2).toNat cw → prevent = part (s.regs.cgwsel.extractLsb' 4 2).toNat cw →
        v1 = (if m.direct then m.dcol else readCgram s.mem m.cidx.toNat) →
        v2 = (if b.direct then b.dcol else readCgram s.mem b.cidx.toNat) →
        c1 = (if clip then { r := 0, g := 0, b := 0 }
          else { r := (v1.extractLsb' 0 5).toNat, g := (v1.extractLsb' 5 5).toNat, b := (v1.extractLsb' 10 5).toNat }) →
        c2 = { r := (v2.extractLsb' 0 5).toNat, g := (v2.extractLsb' 5 5).toNat, b := (v2.extractLsb' 10 5).toNat } →
        px = (fun a1 a2 => BitVec.ofNat 8 (brightChannel s.regs.bright.toNat
          (if s.regs.cgadsub.getLsbD m.src.num = true ∧ prevent = false ∧ (m.src = .obj → m.pal47 = true)
            then blendChannel (s.regs.cgadsub.getLsbD 7) (s.regs.cgadsub.getLsbD 6) a1 a2 else a1))) →
        fbPixel t.cfg t.fb n.toNat col = { r := px c1.r c2.r, g := px c1.g c2.g, b := px c1.b c2.b, a := 255 }

/-- The laws of the colour ALU (R246). -/
def Obligations.ColourMathLaws : Prop :=
  ∀ c1 c2 : Nat, c1 ≤ 31 → c2 ≤ 31 →
    blendChannel false false c1 c2 = min 31 (c1 + c2) ∧ blendChannel false true c1 c2 = (c1 + c2) / 2 ∧
    blendChannel true false c1 c2 = c1 - c2 ∧ blendChannel true true c1 c2 = (c1 - c2) / 2 ∧
    (∀ sub half, blendChannel sub half c1 c2 ≤ 31) ∧
    (c1 + c2 ≤ 31 → blendChannel true false (blendChannel false false c1 c2) c2 = c1)

/-- Brightness: (c*L) div 15, widened to 8 bits; L = 15 leaves the channel, L = 0 gives black (R248). -/
def Obligations.BrightnessScale : Prop :=
  ∀ l c : Nat, l ≤ 15 → c ≤ 31 → c * l / 15 ≤ 31 ∧
    brightChannel l c = 8 * (c * l / 15) + c * l / 15 / 4 ∧
    BitVec.ofNat 8 (brightChannel l c) =
      BitVec.ofNat 5 (c * l / 15) ++ (BitVec.ofNat 5 (c * l / 15)).extractLsb' 2 3 ∧
    brightChannel 15 c = 8 * c + c / 4 ∧ brightChannel 0 c = 0

/-- The backdrops of the two screens, CGRAM[0] and FIXEDCOLOR, and the picture they make (44_compositor.md R216, R217,
R228, 45_color_math.md R245, R251). -/
def Obligations.BackdropPicture : Prop :=
  ∀ (n : BitVec 16) (s : State), n.toNat = s.next → ∃ t, exec (.renderLine n) s = .next t ∧
    (s.regs.tm = 0 → ∀ m ∈ t.mainbuf,
      m = { z := 0, src := .backdrop, cidx := 0, direct := false, dcol := 0, pal47 := false }) ∧
    (s.regs.ts = 0 → ∀ b ∈ t.subbuf,
      b = { z := 0, src := .backdrop, cidx := 0, direct := true, dcol := s.regs.fixedcolor, pal47 := false }) ∧
    (s.regs.tm = 0 → s.regs.cgwsel.extractLsb' 6 2 = 0 → s.regs.cgadsub.getLsbD 5 = false →
      ∀ px ∈ fbRow t.cfg t.fb n.toNat, px = brightPixel s.regs (unpack15 (readCgram s.mem 0))) ∧
    (s.regs.tm = 0 → s.regs.ts = 0 → s.regs.cgwsel.extractLsb' 4 4 = 0 → s.regs.cgadsub.getLsbD 5 = true →
      ∀ (a f : Rgb) (mix : Nat → Nat → Nat), a = unpack15 (readCgram s.mem 0) → f = unpack15 s.regs.fixedcolor →
        mix = blendChannel (s.regs.cgadsub.getLsbD 7) (s.regs.cgadsub.getLsbD 6) →
        ∀ px ∈ fbRow t.cfg t.fb n.toNat,
          px = brightPixel s.regs { r := mix a.r f.r, g := mix a.g f.g, b := mix a.b f.b })

/-- Window membership, the window set of each layer, and its logic (R226, R227). -/
def Obligations.WindowLogic : Prop :=
  ∀ (g : Regs) (k : Src) (x xw : Int) (a b : Bool) (s : BitVec 6),
    (k = .bg .bg1 ∧ s = g.wselBg1) ∨ (k = .bg .bg2 ∧ s = g.wselBg2) ∨ (k = .bg .bg3 ∧ s = g.wselBg3) ∨
      (k = .bg .bg4 ∧ s = g.wselBg4) ∨ (k = .obj ∧ s = g.wselObj) ∨ (k = .backdrop ∧ s = g.wselCol) →
    xw = (if x < 0 then 0 else if 255 < x then 255 else x) →
    a = Bool.xor (decide ((g.wh0.toNat : Int) ≤ xw ∧ xw ≤ (g.wh1.toNat : Int))) (s.getLsbD 0) →
    b = Bool.xor (decide ((g.wh2.toNat : Int) ≤ xw ∧ xw ≤ (g.wh3.toNat : Int))) (s.getLsbD 2) →
    (s.getLsbD 1 = false → s.getLsbD 3 = false → win g k x = false) ∧
    (s.getLsbD 1 = true → s.getLsbD 3 = false → win g k x = a) ∧
    (s.getLsbD 1 = false → s.getLsbD 3 = true → win g k x = b) ∧
    (s.getLsbD 1 = true → s.getLsbD 3 = true →
      ((s.extractLsb' 4 2).toNat = 0 → win g k x = (a || b)) ∧ ((s.extractLsb' 4 2).toNat = 1 → win g k x = (a && b)) ∧
      ((s.extractLsb' 4 2).toNat = 2 → win g k x = Bool.xor a b) ∧
      ((s.extractLsb' 4 2).toNat = 3 → win g k x = !(Bool.xor a b))) ∧
    (g.wh1.toNat < g.wh0.toNat → inWindow g.wh0 g.wh1 x = false)

/-- Exactly the pixels of enabled layers that no window hides are offered, with the rank of their row; and no other
layer is shown (44_compositor.md R218, R222, R224, R225, R228, 00_scope.md R16, 10_state.md R44, R45). The clause that
names Config.defaultRank rests on log entry 2; a rank the table does not list is log entry 21. -/
def Obligations.OfferedCellsAndShownLayers : Prop :=
  (∀ (sc : Scene) (s : Screen) (o : Option ObjPixel) (x : Int) (y : Nat) (en wen : BitVec 5) (r : RankRow)
      (zbg : Bg → Bool → Nat) (zobj : BitVec 2 → Nat),
      (s = .main ∧ en = sc.regs.tm ∧ wen = sc.regs.tmw) ∨ (s = .sub ∧ en = sc.regs.ts ∧ wen = sc.regs.tsw) →
      r = (if bgMode sc.regs = 0 then sc.cfg.rank.m0
        else if bgMode sc.regs = 1 then (if sc.regs.bgmode.getLsbD 3 then sc.cfg.rank.m1p else sc.cfg.rank.m1)
        else if bgMode sc.regs ≤ 4 then sc.cfg.rank.m2
        else if bgMode sc.regs ≤ 6 then sc.cfg.rank.m5 else sc.cfg.rank.m7) →
      (∀ p, zbg .bg1 p = (if p then r.bg1.p1 else r.bg1.p0) ∧ zbg .bg2 p = (if p then r.bg2.p1 else r.bg2.p0) ∧
        zbg .bg3 p = (if p then r.bg3.p1 else r.bg3.p0) ∧ zbg .bg4 p = (if p then r.bg4.p1 else r.bg4.p0)) →
      zobj 0 = r.obj0 ∧ zobj 1 = r.obj1 ∧ zobj 2 = r.obj2 ∧ zobj 3 = r.obj3 →
      ∀ c : ScreenCell, c ∈ offersAt sc s o x y ↔
        (∃ l p, en.getLsbD l.num = true ∧ ¬ (wen.getLsbD l.num = true ∧ win sc.regs (.bg l) x = true) ∧
          layerPixel sc l x y = some p ∧
          c = { z := zbg l p.prio, src := .bg l, cidx := p.cidx, direct := p.direct, dcol := p.dcol, pal47 := false }) ∨
        (∃ q, en.getLsbD 4 = true ∧ ¬ (wen.getLsbD 4 = true ∧ win sc.regs .obj x = true) ∧ o = some q ∧
          c = { z := zobj q.prio, src := .obj, cidx := q.cidx, direct := false, dcol := 0, pal47 := q.pal47 })) ∧
    (Bg.num .bg1 = 0 ∧ Bg.num .bg2 = 1 ∧ Bg.num .bg3 = 2 ∧ Bg.num .bg4 = 3 ∧ Src.num .obj = 4 ∧
      Src.num .backdrop = 5 ∧ ∀ l, Src.num (.bg l) = l.num) ∧
    (∀ g : Regs, bgMode g = (g.bgmode.extractLsb' 0 3).toNat) ∧
    (let r := Config.defaultRank.m0
     [r.obj3, r.bg1.p1, r.bg2.p1, r.obj2, r.bg1.p0, r.bg2.p0, r.obj1, r.bg3.p1, r.bg4.p1, r.obj0, r.bg3.p0, r.bg4.p0] =
       [12, 11, 10, 9, 8, 7, 6, 5, 4, 3, 2, 1]) ∧
    (let r := Config.defaultRank.m1
     [r.obj3, r.bg1.p1, r.bg2.p1, r.obj2, r.bg1.p0, r.bg2.p0, r.obj1, r.bg3.p1, r.obj0, r.bg3.p0] =
       [10, 9, 8, 7, 6, 5, 4, 3, 2, 1]) ∧
    (let r := Config.defaultRank.m1p
     [r.bg3.p1, r.obj3, r.bg1.p1, r.bg2.p1, r.obj2, r.bg1.p0, r.bg2.p0, r.obj1, r.obj0, r.bg3.p0] =
       [11, 10, 9, 8, 7, 6, 5, 4, 2, 1]) ∧
    (let r := Config.defaultRank.m2
     [r.obj3, r.bg1.p1, r.obj2, r.bg2.p1, r.obj1, r.bg1.p0, r.obj0, r.bg2.p0] = [8, 7, 6, 5, 4, 3, 2, 1]) ∧
    (let r := Config.defaultRank.m5
     [r.obj3, r.obj2, r.obj1, r.obj0] = [4, 3, 2, 1]) ∧
    (let r := Config.defaultRank.m7
     [r.obj3, r.obj2, r.bg2.p1, r.obj1, r.bg1.p0, r.obj0, r.bg2.p0] = [7, 6, 5, 4, 3, 2, 1]) ∧
    ∀ (sc : Scene) (s : Screen) (o : Option ObjPixel) (x : Int) (y : Nat),
    (∀ l, (mergeCell sc s o x y).src = .bg l →
      (screenEn sc.regs s).getLsbD l.num = true ∧
      ¬ ((screenWinEn sc.regs s).getLsbD l.num = true ∧ win sc.regs (.bg l) x = true) ∧ layerPixel sc l x y ≠ none) ∧
    ((mergeCell sc s o x y).src = .obj →
      (screenEn sc.regs s).getLsbD 4 = true ∧
      ¬ ((screenWinEn sc.regs s).getLsbD 4 = true ∧ win sc.regs .obj x = true) ∧ o ≠ none)

/-- The final cell is the candidate of maximal rank, whatever the order of the offers (R224). -/
def Obligations.WinnerHasMaximalRank : Prop :=
  (∀ (sc : Scene) (s : Screen) (o : Option ObjPixel) (x : Int) (y : Nat) (cs : List ScreenCell),
      sc.cfg.rank.distinct = true → cs.Perm (offersAt sc s o x y) →
      cs.foldl offer (backdrop sc.regs s) = mergeCell sc s o x y ∧
      (mergeCell sc s o x y = backdrop sc.regs s ∨ mergeCell sc s o x y ∈ offersAt sc s o x y) ∧
      ∀ c ∈ offersAt sc s o x y, c.z ≤ (mergeCell sc s o x y).z) ∧
    ∀ cell cand : ScreenCell, (cell.z < cand.z → offer cell cand = cand) ∧ (cand.z ≤ cell.z → offer cell cand = cell)

/-- Modes 5 and 6 offer no background pixel, whatever MODEDEF says; sprites and the backdrop remain
(41_background_renderer.md R153, 93_implementation_defined.md U9, 44_compositor.md R218). -/
def Obligations.FallbackModesHaveNoBackground : Prop :=
  ∀ sc : Scene, bgMode sc.regs = 5 ∨ bgMode sc.regs = 6 →
    (∀ l x y, layerPixel sc l x y = none) ∧ ∀ s o x y, offersAt sc s o x y = objOffers sc s x o

/-- A scanline shows the first 34 tiles of its first 32 sprites, and no other sprite pixel (42_sprite_evaluator.md
R180 to R186, R188, R191, 00_scope.md R6, R7, 10_state.md R26, R38). The clause that names Config.defaultObjSize rests
on log entry 2. -/
def Obligations.SpriteLimits : Prop :=
  (∀ (sc : Scene) (y i w h : Nat) (x : Int) (low : OamLow) (high : OamHigh) (row : ObjSizeRow),
      low = readLow sc.mem i → high = readHigh sc.mem i →
      x = (low.xlo.toNat : Int) - (if high.xhi then 256 else 0) →
      sc.cfg.objSize[(sc.regs.obsel.extractLsb' 5 3).toNat]? = some row →
      w = (if high.size then row.large.w else row.small.w) → h = (if high.size then row.large.h else row.small.h) →
      (sprite sc.mem i).x = x ∧ (sprite sc.mem i).dim sc = { w := w, h := h } ∧
      (spriteInRange sc (sprite sc.mem i) y = true ↔
        ((y : Int) - (low.y.toNat : Int)) % 256 < (h : Int) ∧ -(w : Int) - (sc.cfg.padL : Int) < x) ∧
      (∀ k, k ∈ tileCols w ↔ k % 8 = 0 ∧ k + 8 ≤ w) ∧ (tileCols w).Pairwise (fun k k' => k < k')) ∧
    (∀ (c : Config) (z : Int),
      (tileOnScreen c z = true ↔ -8 - (c.padL : Int) < z ∧ z ≤ (c.wBase : Int) - 1 + (c.padR : Int)) ∧
      (0 < c.width → (tileOnScreen c z = true ↔ ∃ p : Nat, p < 8 ∧ -(c.padL : Int) ≤ z + (p : Int) ∧
        z + (p : Int) ≤ (c.wBase : Int) - 1 + (c.padR : Int)))) ∧
    (Config.defaultObjSize.map (fun r => (r.small.w, r.small.h, r.large.w, r.large.h)) =
      [(8, 8, 16, 16), (8, 8, 32, 32), (8, 8, 64, 64), (16, 16, 32, 32), (16, 16, 64, 64), (32, 32, 64, 64),
       (16, 32, 32, 64), (16, 32, 32, 32)]) ∧
    ∀ (sc : Scene) (y : Nat),
    (evalSprites sc y).nspr ≤ 32 ∧ (evalSprites sc y).ntile = min 34 (lineTiles sc y).length ∧
    (acceptedSprites sc y).length ≤ 32 ∧
    ∀ col, col < sc.cfg.width →
      (lineObj sc y)[col]? =
        some (((lineTiles sc y).take 34).findSome? (tileDot sc y ((col : Int) - (sc.cfg.padL : Int))))

/-- Once 32 in-range entries stand below index j, the entries from j on do not matter on that scanline
(42_sprite_evaluator.md R182, R186, 10_state.md R27). -/
def Obligations.SpritesBeyondTheFirst32AreDropped : Prop :=
  ∀ (sc sc' : Scene) (y j : Nat), sc.cfg = sc'.cfg → sc.regs = sc'.regs → sc.mem.vram = sc'.mem.vram →
    (∀ i, i < j → sprite sc.mem i = sprite sc'.mem i) → j ≤ 128 →
    32 ≤ ((List.range j).filter (fun i => spriteInRange sc (sprite sc.mem i) y)).length →
    lineObj sc y = lineObj sc' y

/-- A sprite pixel once placed is never replaced by a sprite of a higher index (42_sprite_evaluator.md R182, R191). -/
def Obligations.LowerSpriteIndexWins : Prop :=
  ∀ (sc : Scene) (y j col : Nat) (p : ObjPixel), j ≤ 128 →
    (scanSprites sc y (List.range j) (ObjScan.start sc.cfg)).buf[col]? = some (some p) →
    (lineObj sc y)[col]? = some (some p)

/-- What pixel a fetched sprite tile gives: row, bitmap address, flips, value, upper palette, group flag
(42_sprite_evaluator.md R181, R184, R187, R189, R190, R192, 10_state.md R38). -/
def Obligations.SpritePixelValue : Prop :=
  (∀ (sc : Scene) (y i c : Nat) (x p : Int) (e : OamLow) (d : ObjDim) (r row tc a b pix : Nat) (w0 w1 : VWord),
      e = readLow sc.mem i → d = objDim sc.cfg (sc.regs.obsel.extractLsb' 5 3).toNat (readHigh sc.mem i).size →
      p = x - ((sprite sc.mem i).x + (c : Int)) →
      r = (((y : Int) - (e.y.toNat : Int)) % 256).toNat → row = (if e.vflip then d.h - 1 - r else r) →
      tc = (if e.hflip then d.w - 8 - c else c) / 8 →
      a = ((sc.regs.obsel.extractLsb' 0 3).toNat * 8192 +
        (if e.name then ((sc.regs.obsel.extractLsb' 3 2).toNat + 1) * 4096 else 0) +
        (16 * ((e.tile.toNat / 16 + row / 8) % 16) + (e.tile.toNat % 16 + tc) % 16) * 16 + row % 8) % 32768 →
      w0 = readVram sc.mem a → w1 = readVram sc.mem ((a + 8) % 32768) →
      b = (if e.hflip then p.toNat else 7 - p.toNat) →
      pix = (w0.getLsbD b).toNat + 2 * (w0.getLsbD (8 + b)).toNat + 4 * (w1.getLsbD b).toNat +
        8 * (w1.getLsbD (8 + b)).toNat →
      (p < 0 ∨ 7 < p → tileDot sc y x (i, c) = none) ∧
      (0 ≤ p → p ≤ 7 → pix = 0 → tileDot sc y x (i, c) = none) ∧
      (0 ≤ p → p ≤ 7 → pix ≠ 0 → ∃ o, tileDot sc y x (i, c) = some o ∧
        o.cidx.toNat = 128 + 16 * e.pal.toNat + pix ∧ o.prio = e.prio ∧ (o.pal47 = true ↔ 4 ≤ e.pal.toNat))) ∧
    ∀ (sc : Scene) (y : Nat) (p : ObjPixel), some p ∈ lineObj sc y →
      128 ≤ p.cidx.toNat ∧ p.cidx.toNat % 16 ≠ 0 ∧ (p.pal47 = true ↔ 192 ≤ p.cidx.toNat)

/-- OAM_HIDE makes a sprite that meets no scanline below 224 while small sprites are at most 16 high (30_encoding.md
R119, 42_sprite_evaluator.md R184, 70_reset_and_hazards.md R375). -/
def Obligations.HiddenSpriteIsNeverShown : Prop :=
  ∀ (s : State) (idx : BitVec 8) (eff : Tag), tagNow s eff → idx.toNat ≤ 127 →
    (objDim s.cfg (objPreset s.regs) false).h ≤ 16 →
    ∃ t, exec (oamHide idx eff) s = .next t ∧
      ∀ y, y < 224 → spriteInRange t.scene (sprite t.mem idx.toNat) y = false

/-- Mode 7 with the identity matrix, centre (0, 0), scroll 0 and no mosaic shows texture pixel (X, y) at (X, y)
(R209). -/
def Obligations.Mode7IdentityIsDirectSample : Prop :=
  ∀ (sc : Scene), sc.regs.m7a = 256 → sc.regs.m7d = 256 → sc.regs.m7b = 0 → sc.regs.m7c = 0 → sc.regs.m7x = 0 →
    sc.regs.m7y = 0 → sc.regs.bg1hofs = 0 → sc.regs.bg1vofs = 0 → mosaicN sc.regs .bg1 = 1 →
    (∀ x y : Int, m7Coord sc.regs x y = (x, y)) ∧
    ∀ x y : Nat, x < 1024 → y < 1024 →
      ∀ t, t = ((readVram sc.mem (y / 8 * 128 + x / 8)).extractLsb' 0 8).toNat →
        m7Sample sc (x : Int) y = some ((readVram sc.mem (t * 64 + y % 8 * 8 + x % 8)).extractLsb' 8 8)

/-- Mode 7: the coordinate for every matrix, the candidates of the layer and its sub-layer, the repeat modes and
corner cases (43_mode7.md R201 to R208, R210, 41_background_renderer.md R151, R152, R156, R157, R167, 90_conflicts.md
C8). The clause that names Config.defaultModeDef rests on log entry 2. -/
def Obligations.Mode7Transform : Prop :=
  (∀ (g : Regs) (x y dx dy : Int), dx = x + g.bg1hofs.toInt - g.m7x.toInt →
      dy = y + g.bg1vofs.toInt - g.m7y.toInt →
      m7Coord g x y = ((g.m7a.toInt * dx + g.m7b.toInt * dy) / 256 + g.m7x.toInt,
        (g.m7c.toInt * dx + g.m7d.toInt * dy) / 256 + g.m7y.toInt)) ∧
    (∀ (sc : Scene) (x sx : Int) (y n ph sy : Nat) (q : Option Byte),
      n = (if sc.regs.mosaic.getLsbD 0 then (sc.regs.mosaic.extractLsb' 4 4).toNat + 1 else 1) →
      ph = sc.regs.mosaicph.toNat → sx = x - x % (n : Int) →
      sy = (if n = 1 ∨ y < ph then y else y - (y - ph) % n) →
      q = m7Fetch sc (m7Coord sc.regs sx (sy : Int)).1 (m7Coord sc.regs sx (sy : Int)).2 →
      (q = none ∨ q = some 0 → m7Pixel sc .bg1 x y = none ∧ m7Pixel sc .bg2 x y = none) ∧
      (∀ pix, q = some pix → pix ≠ 0 →
        (sc.regs.cgwsel.getLsbD 0 = false →
          m7Pixel sc .bg1 x y = some { prio := false, cidx := pix, direct := false, dcol := 0 }) ∧
        (sc.regs.cgwsel.getLsbD 0 = true → ∃ c, m7Pixel sc .bg1 x y = some c ∧ c.prio = false ∧ c.direct = true ∧
          unpack15 c.dcol = { r := 4 * (pix.toNat % 8), g := 4 * (pix.toNat / 8 % 8), b := 8 * (pix.toNat / 64) }) ∧
        (sc.regs.m7sel.getLsbD 2 = true → pix.toNat % 128 = 0 → m7Pixel sc .bg2 x y = none) ∧
        (sc.regs.m7sel.getLsbD 2 = true → pix.toNat % 128 ≠ 0 → ∃ c, m7Pixel sc .bg2 x y = some c ∧
          (c.prio = true ↔ 128 ≤ pix.toNat) ∧ c.cidx.toNat = pix.toNat % 128 ∧ c.direct = false)) ∧
      (bgMode sc.regs = 7 → sc.regs.m7sel.getLsbD 2 = false → layerPixel sc .bg2 x y = none) ∧
      (bgMode sc.regs = 7 → sc.cfg.modeDef = Config.defaultModeDef →
        layerPixel sc .bg1 x y = m7Pixel sc .bg1 x y ∧ layerPixel sc .bg2 x y = m7Pixel sc .bg2 x y ∧
        layerPixel sc .bg3 x y = none ∧ layerPixel sc .bg4 x y = none)) ∧
    (∀ (g : Regs) (x y : Int), g.m7a = 0xFF80 → g.m7b = 0 → x + g.bg1hofs.toInt - g.m7x.toInt = 1 →
      (m7Coord g x y).1 = g.m7x.toInt - 1) ∧
    (∀ (g : Regs) (x y : Int), g.m7a = 0 → g.m7b = 0 → g.m7c = 0 → g.m7d = 0 →
      m7Coord g x y = (g.m7x.toInt, g.m7y.toInt)) ∧
    (∀ (sc : Scene) (u v : Int), ¬ (0 ≤ u ∧ u ≤ 1023 ∧ 0 ≤ v ∧ v ≤ 1023) →
      (m7Repeat sc.regs = 2 → m7Fetch sc u v = none) ∧
      (m7Repeat sc.regs = 3 →
        m7Fetch sc u v = some ((readVram sc.mem ((v % 8).toNat * 8 + (u % 8).toNat)).extractLsb' 8 8))) ∧
    (∀ (sc sc' : Scene) (u v : Int), sc.mem = sc'.mem → m7Repeat sc'.regs = 0 →
      (0 ≤ u ∧ u ≤ 1023 ∧ 0 ≤ v ∧ v ≤ 1023 → m7Fetch sc u v = m7Fetch sc' u v) ∧
      (m7Repeat sc.regs = 1 → m7Fetch sc u v = m7Fetch sc' u v)) ∧
    ∀ (sc : Scene) (u v : Int), m7Repeat sc.regs = 0 → m7Fetch sc (u + 1024) v = m7Fetch sc u v ∧
      m7Fetch sc u (v + 1024) = m7Fetch sc u v

/-- Mode 7 reads VRAM below word 16384 only (43_mode7.md R204, R205, 30_encoding.md R126, 20_memory.md R86). -/
def Obligations.Mode7ReadsTheLowerHalfOfVram : Prop :=
  ∀ (sc sc' : Scene) (u v : Int), sc.regs = sc'.regs →
    (∀ a, a < 16384 → readVram sc.mem a = readVram sc'.mem a) → m7Fetch sc u v = m7Fetch sc' u v

/-- With mosaic, all positions of an N by N block show one pixel, on tile layers and in mode 7
(41_background_renderer.md R156, R157, 43_mode7.md R203). -/
def Obligations.MosaicBlocksShareOnePixel : Prop :=
  ∀ (sc : Scene) (l : Bg) (x x' : Int) (y y' n ph : Nat),
    n = (if sc.regs.mosaic.getLsbD l.num then (sc.regs.mosaic.extractLsb' 4 4).toNat + 1 else 1) →
    ph = sc.regs.mosaicph.toNat → x / (n : Int) = x' / (n : Int) → ph ≤ y → ph ≤ y' →
    (y - ph) / n = (y' - ph) / n →
    (∀ bpp, bgPixel sc l bpp x y = bgPixel sc l bpp x' y') ∧
    (l = .bg1 → ∀ k, m7Pixel sc k x y = m7Pixel sc k x' y')

/-- Scroll values that agree modulo the tilemap's size in pixels give the tile layers the same pixels
(41_background_renderer.md R158, R168, R169, R171). -/
def Obligations.ScrollWrapsAroundTheTilemap : Prop :=
  ∀ (sc : Scene) (bpp : Nat) (x : Int) (y : Nat) (h h' v v' : BitVec 16),
    (∀ k, mapW sc.regs k = (if (bgSc sc.regs k).getLsbD 0 then 64 else 32) ∧
      mapH sc.regs k = (if (bgSc sc.regs k).getLsbD 1 then 64 else 32) ∧
      tileSize sc.regs k = (if (bgSc sc.regs k).getLsbD 8 then 16 else 8) ∧
      mapW sc.regs k * tileSize sc.regs k ∈ [256, 512, 1024] ∧
      mapH sc.regs k * tileSize sc.regs k ∈ [256, 512, 1024]) ∧
    ∀ k l, h.toNat % (mapW sc.regs k * tileSize sc.regs k) = h'.toNat % (mapW sc.regs k * tileSize sc.regs k) →
      v.toNat % (mapH sc.regs k * tileSize sc.regs k) = v'.toNat % (mapH sc.regs k * tileSize sc.regs k) →
      (k = .bg1 → bgPixel { sc with regs := { sc.regs with bg1hofs := h, bg1vofs := v } } l bpp x y =
        bgPixel { sc with regs := { sc.regs with bg1hofs := h', bg1vofs := v' } } l bpp x y) ∧
      (k = .bg2 → bgPixel { sc with regs := { sc.regs with bg2hofs := h, bg2vofs := v } } l bpp x y =
        bgPixel { sc with regs := { sc.regs with bg2hofs := h', bg2vofs := v' } } l bpp x y) ∧
      (k = .bg3 → bgPixel { sc with regs := { sc.regs with bg3hofs := h, bg3vofs := v } } l bpp x y =
        bgPixel { sc with regs := { sc.regs with bg3hofs := h', bg3vofs := v' } } l bpp x y) ∧
      (k = .bg4 → bgPixel { sc with regs := { sc.regs with bg4hofs := h, bg4vofs := v } } l bpp x y =
        bgPixel { sc with regs := { sc.regs with bg4hofs := h', bg4vofs := v' } } l bpp x y)

/-- A tile pixel's value is made of its plane bits (R125). -/
def Obligations.TilePixelIsItsPlaneBits : Prop :=
  (∀ (m : Memory) (t bpp c r : Nat), bpp = 2 ∨ bpp = 4 ∨ bpp = 8 → c < 8 → r < 8 →
      tilePixel m t bpp c r < 2 ^ bpp ∧
      ∀ k, k < bpp / 2 →
        (tilePixel m t bpp c r).testBit (2 * k) = (readVram m ((t + 8 * k + r) % 32768)).getLsbD (7 - c) ∧
        (tilePixel m t bpp c r).testBit (2 * k + 1) = (readVram m ((t + 8 * k + r) % 32768)).getLsbD (15 - c)) ∧
    ∀ (m : Memory) (t r : Nat), readVram m ((t + r) % 32768) = 0xA5C3 →
      (List.range 8).map (fun c => tilePixel m t 2 c r) = [3, 1, 2, 0, 0, 2, 1, 3]

/-- The central columns of a wide render equal the native-width render (47_render_commands.md R331,
41_background_renderer.md R170, 43_mode7.md R210). -/
def Obligations.WidescreenKeepsTheCentre : Prop :=
  ∀ (n : BitVec 16) (s s' : State), n.toNat = s.next → s' = { s with cfg := { s.cfg with padL := 0, padR := 0 } } →
    ((s.regs.tm.getLsbD 4 = false ∧ s.regs.ts.getLsbD 4 = false) ∨
      ∀ c, c < s.cfg.wBase → (lineObj s.scene n.toNat)[s.cfg.padL + c]? = (lineObj s'.scene n.toNat)[c]?) →
    ∃ t t', exec (.renderLine n) s = .next t ∧ exec (.renderLine n) s' = .next t' ∧
      ∀ c, c < s.cfg.wBase →
        fbPixel t.cfg t.fb n.toNat (s.cfg.padL + c) = fbPixel t'.cfg t'.fb n.toNat c

/-- Where each pixel byte lies in the frame buffer, and the byte images of VRAM and CGRAM (log entries 12, 20)
(00_scope.md R8, 20_memory.md R82, 93_implementation_defined.md U4). That a byte of the pitch padding reads none is
the model's choice of representation (log entry 12, DEDUCED from U4), and so is the zero in bit 7 of the high byte of
a CGRAM entry (log entry 20, DESIGN CHOICE). -/
def Obligations.ByteImages : Prop :=
  (∀ (c : Config) (fb : FrameBuf) (y col : Nat), c.wf = true → col < c.width →
      frameByte c fb (y * c.pitch + 4 * col) = some (fbPixel c fb y col).r ∧
      frameByte c fb (y * c.pitch + 4 * col + 1) = some (fbPixel c fb y col).g ∧
      frameByte c fb (y * c.pitch + 4 * col + 2) = some (fbPixel c fb y col).b ∧
      frameByte c fb (y * c.pitch + 4 * col + 3) = some (fbPixel c fb y col).a) ∧
    (∀ (c : Config) (fb : FrameBuf) (y k : Nat), 4 * c.width ≤ k → k < c.pitch →
      frameByte c fb (y * c.pitch + k) = none) ∧
    ∀ (m : Memory) (a : Nat),
      vramByte m (2 * a) = (readVram m a).extractLsb' 0 8 ∧ vramByte m (2 * a + 1) = (readVram m a).extractLsb' 8 8 ∧
      cgramByte m (2 * a) = (readCgram m a).extractLsb' 0 8 ∧
      cgramByte m (2 * a + 1) = ((readCgram m a).setWidth 16).extractLsb' 8 8

/-- Tile layers: depth by mode, tilemap address, flips, 16x16 tiles, bitmap address, transparency, colour, per-tile
offset (41_background_renderer.md R151, R152, R154, R155, R156, R157, R159 to R162, R164 to R169, 30_encoding.md R124,
44_compositor.md R218, 10_state.md R35 to R37). The clause that names Config.defaultModeDef rests on log entry 2. -/
def Obligations.TileLayerPixel : Prop :=
  ∀ (sc : Scene) (word : Bg → Int → Int → VWord),
    (∀ (k : Bg) (u v : Int) (w h t tx ty : Nat), w = (if (bgSc sc.regs k).getLsbD 0 then 64 else 32) →
      h = (if (bgSc sc.regs k).getLsbD 1 then 64 else 32) → t = (if (bgSc sc.regs k).getLsbD 8 then 16 else 8) →
      tx = (u % ((w * t : Nat) : Int)).toNat / t → ty = (v % ((h * t : Nat) : Int)).toNat / t →
      word k u v = readVram sc.mem ((((bgSc sc.regs k).extractLsb' 2 6).toNat * 1024 + ty % 32 * 32 + tx % 32 +
        (if 32 ≤ tx then 1024 else 0) + (if 32 ≤ ty then (if w = 64 then 2048 else 1024) else 0)) % 32768)) →
    (∀ (l : Bg) (bpp : Nat) (x sx : Int) (y n ph sy : Nat) (p : Int × Int) (w h t fx fy tile a pix pal : Nat)
        (e : VWord),
      bpp = 2 ∨ bpp = 4 ∨ bpp = 8 →
      n = (if sc.regs.mosaic.getLsbD l.num then (sc.regs.mosaic.extractLsb' 4 4).toNat + 1 else 1) →
      ph = sc.regs.mosaicph.toNat → sx = x - x % (n : Int) →
      sy = (if n = 1 ∨ y < ph then y else y - (y - ph) % n) → p = scrolled sc l sx (sy : Int) →
      w = (if (bgSc sc.regs l).getLsbD 0 then 64 else 32) → h = (if (bgSc sc.regs l).getLsbD 1 then 64 else 32) →
      t = (if (bgSc sc.regs l).getLsbD 8 then 16 else 8) → e = word l p.1 p.2 →
      fx = (if e.getLsbD 14 then t - 1 - (p.1 % ((w * t : Nat) : Int)).toNat % t
        else (p.1 % ((w * t : Nat) : Int)).toNat % t) →
      fy = (if e.getLsbD 15 then t - 1 - (p.2 % ((h * t : Nat) : Int)).toNat % t
        else (p.2 % ((h * t : Nat) : Int)).toNat % t) →
      tile = (if t = 16 then ((e.extractLsb' 0 10).toNat + fx / 8 + 16 * (fy / 8)) % 1024
        else (e.extractLsb' 0 10).toNat) →
      a = (chrBase sc.regs l * 4096 + tile * 4 * bpp) % 32768 → pix = tilePixel sc.mem a bpp (fx % 8) (fy % 8) →
      pal = (e.extractLsb' 10 3).toNat →
      (pix = 0 → bgPixel sc l bpp x y = none) ∧
      (pix ≠ 0 → ∃ c, bgPixel sc l bpp x y = some c ∧ c.prio = e.getLsbD 13 ∧
        (sc.regs.cgwsel.getLsbD 0 = true ∧ bpp = 8 ∧ l = .bg1 → c.direct = true ∧
          unpack15 c.dcol = { r := 4 * (pix % 8) + 2 * (pal % 2), g := 4 * (pix / 8 % 8) + 2 * (pal / 2 % 2),
                              b := 8 * (pix / 64) + 4 * (pal / 4) }) ∧
        (¬ (sc.regs.cgwsel.getLsbD 0 = true ∧ bpp = 8 ∧ l = .bg1) → c.direct = false ∧
          (bpp = 2 → c.cidx.toNat = 4 * pal + pix + (if bgMode sc.regs = 0 then 32 * l.num else 0)) ∧
          (bpp = 4 → c.cidx.toNat = 16 * pal + pix) ∧ (bpp = 8 → c.cidx.toNat = pix)))) ∧
    (∀ (l : Bg) (x : Int) (y : Nat) (row : ModeRow) (d : LayerDef), bgMode sc.regs ≤ 4 →
      sc.cfg.modeDef[bgMode sc.regs]? = some row →
      (l = .bg1 ∧ d = row.bg1) ∨ (l = .bg2 ∧ d = row.bg2) ∨ (l = .bg3 ∧ d = row.bg3) ∨ (l = .bg4 ∧ d = row.bg4) →
      (d = .absent → layerPixel sc l x y = none) ∧ (d = .bpp2 → layerPixel sc l x y = bgPixel sc l 2 x y) ∧
      (d = .bpp4 → layerPixel sc l x y = bgPixel sc l 4 x y) ∧
      (d = .bpp8 → layerPixel sc l x y = bgPixel sc l 8 x y)) ∧
    (Config.defaultModeDef.map (fun r => ([layerBpp r.bg1, layerBpp r.bg2, layerBpp r.bg3, layerBpp r.bg4], r.opt)) =
      [([2, 2, 2, 2], false), ([4, 4, 2, 0], false), ([4, 4, 0, 0], true), ([8, 4, 0, 0], false),
       ([8, 2, 0, 0], true), ([0, 0, 0, 0], false), ([0, 0, 0, 0], false), ([8, 0, 0, 0], false)]) ∧
    (∀ g : Regs,
      [bgSc g .bg1, bgSc g .bg2, bgSc g .bg3, bgSc g .bg4] = [g.bg1sc, g.bg2sc, g.bg3sc, g.bg4sc] ∧
      [chrBase g .bg1, chrBase g .bg2, chrBase g .bg3, chrBase g .bg4] =
        [g.bg1nba.toNat, g.bg2nba.toNat, g.bg3nba.toNat, g.bg4nba.toNat] ∧
      [bgHofs g .bg1, bgHofs g .bg2, bgHofs g .bg3, bgHofs g .bg4] = [g.bg1hofs, g.bg2hofs, g.bg3hofs, g.bg4hofs] ∧
      [bgVofs g .bg1, bgVofs g .bg2, bgVofs g .bg3, bgVofs g .bg4] = [g.bg1vofs, g.bg2vofs, g.bg3vofs, g.bg4vofs]) ∧
    ∀ (l : Bg) (sx sy lx ly col : Int) (own h v : Nat) (hv vv : VWord), h = (bgHofs sc.regs l).toNat →
      v = (bgVofs sc.regs l).toNat → lx = sx + (h : Int) → ly = sy + (v : Int) → col = lx / 8 - (h : Int) / 8 →
      own = (if l = .bg1 then 13 else 14) →
      hv = word .bg3 (8 * (col - 1) + (sc.regs.bg3hofs.toNat : Int)) (sc.regs.bg3vofs.toNat : Int) →
      vv = word .bg3 (8 * (col - 1) + (sc.regs.bg3hofs.toNat : Int)) (8 + (sc.regs.bg3vofs.toNat : Int)) →
      ∀ overridden,
        overridden = ((∃ row, sc.cfg.modeDef[bgMode sc.regs]? = some row ∧ row.opt = true) ∧ (l = .bg1 ∨ l = .bg2) ∧
          0 < col) →
        (¬ overridden → scrolled sc l sx sy = (lx, ly)) ∧
        (overridden → ∀ useH useV : Bool,
          useH = (hv.getLsbD own && !(bgMode sc.regs == 4 && hv.getLsbD 15)) →
          useV = (if bgMode sc.regs = 4 then hv.getLsbD own && hv.getLsbD 15 else vv.getLsbD own) →
          scrolled sc l sx sy =
            (if useH then ((hv.extractLsb' 3 7).toNat : Int) * 8 + col * 8 + lx % 8 else lx,
             if useV then (((if bgMode sc.regs = 4 then hv else vv).extractLsb' 0 10).toNat : Int) + sy else ly))
end

