-- ==== Sys2Proof/Laws/State.lean ====
section
/-! SUPPORT. One lemma for each field under each update of the state, so that no proof unfolds a record update. -/

namespace Sys2Proof.Machine

@[simp] theorem State.withMem_cfg (s : State) (m : Memory) : (s.withMem m).cfg = s.cfg := rfl
@[simp] theorem State.withMem_mem (s : State) (m : Memory) : (s.withMem m).mem = m := rfl
@[simp] theorem State.withMem_regs (s : State) (m : Memory) : (s.withMem m).regs = s.regs := rfl
@[simp] theorem State.withMem_seq (s : State) (m : Memory) : (s.withMem m).seq = s.seq := rfl
@[simp] theorem State.withMem_pending (s : State) (m : Memory) : (s.withMem m).pending = s.pending := rfl
@[simp] theorem State.withMem_objbuf (s : State) (m : Memory) : (s.withMem m).objbuf = s.objbuf := rfl
@[simp] theorem State.withMem_mainbuf (s : State) (m : Memory) : (s.withMem m).mainbuf = s.mainbuf := rfl
@[simp] theorem State.withMem_subbuf (s : State) (m : Memory) : (s.withMem m).subbuf = s.subbuf := rfl
@[simp] theorem State.withMem_fb (s : State) (m : Memory) : (s.withMem m).fb = s.fb := rfl
@[simp] theorem State.withMem_stream (s : State) (m : Memory) : (s.withMem m).stream = s.stream := rfl
@[simp] theorem State.withMem_resp (s : State) (m : Memory) : (s.withMem m).resp = s.resp := rfl

@[simp] theorem State.withRegs_cfg (s : State) (g : Regs) : (s.withRegs g).cfg = s.cfg := rfl
@[simp] theorem State.withRegs_mem (s : State) (g : Regs) : (s.withRegs g).mem = s.mem := rfl
@[simp] theorem State.withRegs_regs (s : State) (g : Regs) : (s.withRegs g).regs = g := rfl
@[simp] theorem State.withRegs_seq (s : State) (g : Regs) : (s.withRegs g).seq = s.seq := rfl
@[simp] theorem State.withRegs_pending (s : State) (g : Regs) : (s.withRegs g).pending = s.pending := rfl
@[simp] theorem State.withRegs_objbuf (s : State) (g : Regs) : (s.withRegs g).objbuf = s.objbuf := rfl
@[simp] theorem State.withRegs_mainbuf (s : State) (g : Regs) : (s.withRegs g).mainbuf = s.mainbuf := rfl
@[simp] theorem State.withRegs_subbuf (s : State) (g : Regs) : (s.withRegs g).subbuf = s.subbuf := rfl
@[simp] theorem State.withRegs_fb (s : State) (g : Regs) : (s.withRegs g).fb = s.fb := rfl
@[simp] theorem State.withRegs_stream (s : State) (g : Regs) : (s.withRegs g).stream = s.stream := rfl
@[simp] theorem State.withRegs_resp (s : State) (g : Regs) : (s.withRegs g).resp = s.resp := rfl

@[simp] theorem State.withSeq_cfg (s : State) (q : Seq) : (s.withSeq q).cfg = s.cfg := rfl
@[simp] theorem State.withSeq_mem (s : State) (q : Seq) : (s.withSeq q).mem = s.mem := rfl
@[simp] theorem State.withSeq_regs (s : State) (q : Seq) : (s.withSeq q).regs = s.regs := rfl
@[simp] theorem State.withSeq_seq (s : State) (q : Seq) : (s.withSeq q).seq = q := rfl
@[simp] theorem State.withSeq_pending (s : State) (q : Seq) : (s.withSeq q).pending = s.pending := rfl
@[simp] theorem State.withSeq_objbuf (s : State) (q : Seq) : (s.withSeq q).objbuf = s.objbuf := rfl
@[simp] theorem State.withSeq_mainbuf (s : State) (q : Seq) : (s.withSeq q).mainbuf = s.mainbuf := rfl
@[simp] theorem State.withSeq_subbuf (s : State) (q : Seq) : (s.withSeq q).subbuf = s.subbuf := rfl
@[simp] theorem State.withSeq_fb (s : State) (q : Seq) : (s.withSeq q).fb = s.fb := rfl
@[simp] theorem State.withSeq_stream (s : State) (q : Seq) : (s.withSeq q).stream = s.stream := rfl
@[simp] theorem State.withSeq_resp (s : State) (q : Seq) : (s.withSeq q).resp = s.resp := rfl

@[simp] theorem State.withPending_cfg (s : State) (p : List PendingWrite) : (s.withPending p).cfg = s.cfg := rfl
@[simp] theorem State.withPending_mem (s : State) (p : List PendingWrite) : (s.withPending p).mem = s.mem := rfl
@[simp] theorem State.withPending_regs (s : State) (p : List PendingWrite) : (s.withPending p).regs = s.regs := rfl
@[simp] theorem State.withPending_seq (s : State) (p : List PendingWrite) : (s.withPending p).seq = s.seq := rfl
@[simp] theorem State.withPending_pending (s : State) (p : List PendingWrite) : (s.withPending p).pending = p := rfl
@[simp] theorem State.withPending_objbuf (s : State) (p : List PendingWrite) : (s.withPending p).objbuf = s.objbuf := rfl
@[simp] theorem State.withPending_mainbuf (s : State) (p : List PendingWrite) : (s.withPending p).mainbuf = s.mainbuf := rfl
@[simp] theorem State.withPending_subbuf (s : State) (p : List PendingWrite) : (s.withPending p).subbuf = s.subbuf := rfl
@[simp] theorem State.withPending_fb (s : State) (p : List PendingWrite) : (s.withPending p).fb = s.fb := rfl
@[simp] theorem State.withPending_stream (s : State) (p : List PendingWrite) : (s.withPending p).stream = s.stream := rfl
@[simp] theorem State.withPending_resp (s : State) (p : List PendingWrite) : (s.withPending p).resp = s.resp := rfl

@[simp] theorem State.withScratch_cfg (s : State) (o : List (Option ObjPixel)) (m b : List ScreenCell) : (s.withScratch o m b).cfg = s.cfg := rfl
@[simp] theorem State.withScratch_mem (s : State) (o : List (Option ObjPixel)) (m b : List ScreenCell) : (s.withScratch o m b).mem = s.mem := rfl
@[simp] theorem State.withScratch_regs (s : State) (o : List (Option ObjPixel)) (m b : List ScreenCell) : (s.withScratch o m b).regs = s.regs := rfl
@[simp] theorem State.withScratch_seq (s : State) (o : List (Option ObjPixel)) (m b : List ScreenCell) : (s.withScratch o m b).seq = s.seq := rfl
@[simp] theorem State.withScratch_pending (s : State) (o : List (Option ObjPixel)) (m b : List ScreenCell) : (s.withScratch o m b).pending = s.pending := rfl
@[simp] theorem State.withScratch_objbuf (s : State) (o : List (Option ObjPixel)) (m b : List ScreenCell) : (s.withScratch o m b).objbuf = o := rfl
@[simp] theorem State.withScratch_mainbuf (s : State) (o : List (Option ObjPixel)) (m b : List ScreenCell) : (s.withScratch o m b).mainbuf = m := rfl
@[simp] theorem State.withScratch_subbuf (s : State) (o : List (Option ObjPixel)) (m b : List ScreenCell) : (s.withScratch o m b).subbuf = b := rfl
@[simp] theorem State.withScratch_fb (s : State) (o : List (Option ObjPixel)) (m b : List ScreenCell) : (s.withScratch o m b).fb = s.fb := rfl
@[simp] theorem State.withScratch_stream (s : State) (o : List (Option ObjPixel)) (m b : List ScreenCell) : (s.withScratch o m b).stream = s.stream := rfl
@[simp] theorem State.withScratch_resp (s : State) (o : List (Option ObjPixel)) (m b : List ScreenCell) : (s.withScratch o m b).resp = s.resp := rfl

@[simp] theorem State.withFb_cfg (s : State) (f : FrameBuf) : (s.withFb f).cfg = s.cfg := rfl
@[simp] theorem State.withFb_mem (s : State) (f : FrameBuf) : (s.withFb f).mem = s.mem := rfl
@[simp] theorem State.withFb_regs (s : State) (f : FrameBuf) : (s.withFb f).regs = s.regs := rfl
@[simp] theorem State.withFb_seq (s : State) (f : FrameBuf) : (s.withFb f).seq = s.seq := rfl
@[simp] theorem State.withFb_pending (s : State) (f : FrameBuf) : (s.withFb f).pending = s.pending := rfl
@[simp] theorem State.withFb_objbuf (s : State) (f : FrameBuf) : (s.withFb f).objbuf = s.objbuf := rfl
@[simp] theorem State.withFb_mainbuf (s : State) (f : FrameBuf) : (s.withFb f).mainbuf = s.mainbuf := rfl
@[simp] theorem State.withFb_subbuf (s : State) (f : FrameBuf) : (s.withFb f).subbuf = s.subbuf := rfl
@[simp] theorem State.withFb_fb (s : State) (f : FrameBuf) : (s.withFb f).fb = f := rfl
@[simp] theorem State.withFb_stream (s : State) (f : FrameBuf) : (s.withFb f).stream = s.stream := rfl
@[simp] theorem State.withFb_resp (s : State) (f : FrameBuf) : (s.withFb f).resp = s.resp := rfl

@[simp] theorem State.withStream_cfg (s : State) (ws : List Word) : (s.withStream ws).cfg = s.cfg := rfl
@[simp] theorem State.withStream_mem (s : State) (ws : List Word) : (s.withStream ws).mem = s.mem := rfl
@[simp] theorem State.withStream_regs (s : State) (ws : List Word) : (s.withStream ws).regs = s.regs := rfl
@[simp] theorem State.withStream_seq (s : State) (ws : List Word) : (s.withStream ws).seq = s.seq := rfl
@[simp] theorem State.withStream_pending (s : State) (ws : List Word) : (s.withStream ws).pending = s.pending := rfl
@[simp] theorem State.withStream_objbuf (s : State) (ws : List Word) : (s.withStream ws).objbuf = s.objbuf := rfl
@[simp] theorem State.withStream_mainbuf (s : State) (ws : List Word) : (s.withStream ws).mainbuf = s.mainbuf := rfl
@[simp] theorem State.withStream_subbuf (s : State) (ws : List Word) : (s.withStream ws).subbuf = s.subbuf := rfl
@[simp] theorem State.withStream_fb (s : State) (ws : List Word) : (s.withStream ws).fb = s.fb := rfl
@[simp] theorem State.withStream_stream (s : State) (ws : List Word) : (s.withStream ws).stream = ws := rfl
@[simp] theorem State.withStream_resp (s : State) (ws : List Word) : (s.withStream ws).resp = s.resp := rfl

@[simp] theorem respond_cfg (s : State) (v : Response) : (respond s v).cfg = s.cfg := rfl
@[simp] theorem respond_mem (s : State) (v : Response) : (respond s v).mem = s.mem := rfl
@[simp] theorem respond_regs (s : State) (v : Response) : (respond s v).regs = s.regs := rfl
@[simp] theorem respond_seq (s : State) (v : Response) : (respond s v).seq = s.seq := rfl
@[simp] theorem respond_pending (s : State) (v : Response) : (respond s v).pending = s.pending := rfl
@[simp] theorem respond_objbuf (s : State) (v : Response) : (respond s v).objbuf = s.objbuf := rfl
@[simp] theorem respond_mainbuf (s : State) (v : Response) : (respond s v).mainbuf = s.mainbuf := rfl
@[simp] theorem respond_subbuf (s : State) (v : Response) : (respond s v).subbuf = s.subbuf := rfl
@[simp] theorem respond_fb (s : State) (v : Response) : (respond s v).fb = s.fb := rfl
@[simp] theorem respond_stream (s : State) (v : Response) : (respond s v).stream = s.stream := rfl
@[simp] theorem respond_resp (s : State) (v : Response) : (respond s v).resp = some v := rfl

@[simp] theorem reject_cfg (s : State) (c : RejCode) : (reject s c).cfg = s.cfg := rfl
@[simp] theorem reject_mem (s : State) (c : RejCode) : (reject s c).mem = s.mem := rfl
@[simp] theorem reject_regs (s : State) (c : RejCode) : (reject s c).regs = s.regs := rfl
@[simp] theorem reject_seq (s : State) (c : RejCode) : (reject s c).seq = s.seq := rfl
@[simp] theorem reject_pending (s : State) (c : RejCode) : (reject s c).pending = s.pending := rfl
@[simp] theorem reject_objbuf (s : State) (c : RejCode) : (reject s c).objbuf = s.objbuf := rfl
@[simp] theorem reject_mainbuf (s : State) (c : RejCode) : (reject s c).mainbuf = s.mainbuf := rfl
@[simp] theorem reject_subbuf (s : State) (c : RejCode) : (reject s c).subbuf = s.subbuf := rfl
@[simp] theorem reject_fb (s : State) (c : RejCode) : (reject s c).fb = s.fb := rfl
@[simp] theorem reject_stream (s : State) (c : RejCode) : (reject s c).stream = s.stream := rfl
@[simp] theorem reject_resp (s : State) (c : RejCode) : (reject s c).resp = some (.rej c) := rfl

@[simp] theorem State.withMem_next (s : State) (m : Memory) : (s.withMem m).next = s.next := rfl
@[simp] theorem State.withRegs_next (s : State) (g : Regs) : (s.withRegs g).next = s.next := rfl
@[simp] theorem State.withPending_next (s : State) (p : List PendingWrite) : (s.withPending p).next = s.next := rfl
@[simp] theorem State.withScratch_next (s : State) (o : List (Option ObjPixel)) (m b : List ScreenCell) : (s.withScratch o m b).next = s.next := rfl
@[simp] theorem State.withFb_next (s : State) (f : FrameBuf) : (s.withFb f).next = s.next := rfl
@[simp] theorem State.withStream_next (s : State) (ws : List Word) : (s.withStream ws).next = s.next := rfl
@[simp] theorem State.withSeq_next (s : State) (q : Seq) : (s.withSeq q).next = q.next := rfl
@[simp] theorem respond_next (s : State) (v : Response) : (respond s v).next = s.next := rfl
@[simp] theorem reject_next (s : State) (c : RejCode) : (reject s c).next = s.next := rfl
@[simp] theorem State.withSeq_scene (s : State) (q : Seq) : (s.withSeq q).scene = s.scene := rfl
@[simp] theorem State.withPending_scene (s : State) (p : List PendingWrite) : (s.withPending p).scene = s.scene := rfl
@[simp] theorem State.withScratch_scene (s : State) (o : List (Option ObjPixel)) (m b : List ScreenCell) : (s.withScratch o m b).scene = s.scene := rfl
@[simp] theorem State.withFb_scene (s : State) (f : FrameBuf) : (s.withFb f).scene = s.scene := rfl
@[simp] theorem State.withStream_scene (s : State) (ws : List Word) : (s.withStream ws).scene = s.scene := rfl
@[simp] theorem State.scene_cfg (s : State) : s.scene.cfg = s.cfg := rfl
@[simp] theorem State.scene_mem (s : State) : s.scene.mem = s.mem := rfl
@[simp] theorem State.scene_regs (s : State) : s.scene.regs = s.regs := rfl

/-- The values of `NEXT` (10_state.md R61). -/
@[simp] theorem Seq.next_idle : Seq.idle.next = 0 := rfl
@[simp] theorem Seq.next_scanlineInProgress (n : Nat) : (Seq.scanlineInProgress n).next = n + 1 := rfl
@[simp] theorem Seq.next_frameComplete : Seq.frameComplete.next = 0 := rfl

/-- What each act does (40_memory_write_commands.md R142 to R144; R260). -/
@[simp] theorem applyAct_vram (off : Nat) (d : List VWord) (s : State) :
    applyAct (.vram off d) s = s.withMem (writeVram s.mem off d) := rfl
@[simp] theorem applyAct_cgram (i : Nat) (v : Colour15) (s : State) :
    applyAct (.cgram i v) s = s.withMem (writeCgram s.mem i v) := rfl
@[simp] theorem applyAct_oam (i : Nat) (l : OamLow) (h : OamHigh) (s : State) :
    applyAct (.oam i l h) s = s.withMem (writeOam s.mem i l h) := rfl
@[simp] theorem applyAct_reg (r : RegName) (v : BitVec 16) (s : State) :
    applyAct (.reg r v) s = s.withRegs (setReg s.regs r v) := rfl

end Sys2Proof.Machine
end

