-- ==== Sys2Proof/Laws/Memory.lean ====
section
/-! SUPPORT. The laws of sparse memories: a read after a write, and that every memory operation keeps the canonical
form. -/

namespace Sys2Proof.Machine

variable {α : Type}

@[simp] theorem readCell_nil (d : α) (a : Nat) : readCell d [] a = d := rfl

theorem readCell_cons (d : α) (e : Nat × α) (m : Cells α) (a : Nat) :
    readCell d (e :: m) a = if e.1 = a then e.2 else readCell d m a := rfl

/-- An address no entry lists reads as the value of unlisted cells. -/
theorem readCell_unlisted (d : α) (m : Cells α) (a : Nat) (h : ∀ e ∈ m, e.1 ≠ a) : readCell d m a = d := by
  induction m with
  | nil => rfl
  | cons e m ih =>
    rw [readCell_cons, if_neg (h e (by simp)), ih (fun e' he' => h e' (by simp [he']))]

/-- The inserted cell is found where no other entry lists its address. -/
theorem readCell_insert_same (d : α) (a : Nat) (v : α) (m : Cells α) (h : ∀ e ∈ m, e.1 ≠ a) :
    readCell d (insertCell a v m) a = v := by
  induction m with
  | nil => simp [insertCell, readCell_cons]
  | cons e m ih =>
    obtain ⟨b, u⟩ := e
    have hb : b ≠ a := h (b, u) (by simp)
    by_cases hab : a < b
    · simp [insertCell, hab, readCell_cons]
    · simp [insertCell, hab, readCell_cons, hb, ih (fun e' he' => h e' (by simp [he']))]

theorem readCell_insert_other (d : α) (a a' : Nat) (v : α) (m : Cells α) (h : a' ≠ a) :
    readCell d (insertCell a v m) a' = readCell d m a' := by
  induction m with
  | nil => simp [insertCell, readCell_cons, Ne.symm h]
  | cons e m ih =>
    obtain ⟨b, u⟩ := e
    by_cases hab : a < b <;> simp [insertCell, hab, readCell_cons, Ne.symm h, ih]

theorem eraseCell_unlisted (a : Nat) (m : Cells α) : ∀ e ∈ eraseCell a m, e.1 ≠ a := by
  intro e he
  simpa using (List.mem_filter.mp he).2

theorem readCell_erase_other (d : α) (a a' : Nat) (m : Cells α) (h : a' ≠ a) :
    readCell d (eraseCell a m) a' = readCell d m a' := by
  induction m with
  | nil => rfl
  | cons e m ih =>
    have ih' : readCell d (m.filter (fun e => e.1 != a)) a' = readCell d m a' := ih
    by_cases hea : e.1 = a
    · simp [eraseCell, hea, readCell_cons, Ne.symm h, ih']
    · simp [eraseCell, hea, readCell_cons, ih']

/-- A read after a write to the same cell gives the value written. -/
@[simp] theorem readCell_writeCell_same [DecidableEq α] (d : α) (m : Cells α) (a : Nat) (v : α) :
    readCell d (writeCell d m a v) a = v := by
  by_cases hv : v = d
  · simp [writeCell, hv, readCell_unlisted d _ a (eraseCell_unlisted a m)]
  · simp [writeCell, hv, readCell_insert_same d a v _ (eraseCell_unlisted a m)]

/-- A write leaves every other cell alone. -/
theorem readCell_writeCell_other [DecidableEq α] (d : α) (m : Cells α) (a a' : Nat) (v : α) (h : a' ≠ a) :
    readCell d (writeCell d m a v) a' = readCell d m a' := by
  by_cases hv : v = d
  · simp [writeCell, hv, readCell_erase_other d a a' m h]
  · simp [writeCell, hv, readCell_insert_other d a a' v _ h, readCell_erase_other d a a' m h]

/-! ## The canonical form -/

theorem risingFrom_mono (lo lo' : Nat) (m : Cells α) (h : risingFrom lo' m = true) (hl : lo ≤ lo') :
    risingFrom lo m = true := by
  cases m with
  | nil => rfl
  | cons e m =>
    obtain ⟨b, u⟩ := e
    simp only [risingFrom, Bool.and_eq_true, decide_eq_true_eq] at h ⊢
    exact ⟨le_trans hl h.1, h.2⟩

theorem risingFrom_erase (a lo : Nat) (m : Cells α) (h : risingFrom lo m = true) :
    risingFrom lo (eraseCell a m) = true := by
  induction m generalizing lo with
  | nil => rfl
  | cons e m ih =>
    obtain ⟨b, u⟩ := e
    simp only [risingFrom, Bool.and_eq_true, decide_eq_true_eq] at h
    have ih' : risingFrom (b + 1) (m.filter (fun e => e.1 != a)) = true := ih (b + 1) h.2
    by_cases hb : b = a
    · simp only [eraseCell, hb, List.filter_cons, bne_self_eq_false, Bool.false_eq_true, if_false]
      rw [hb] at ih' h
      exact risingFrom_mono _ _ _ ih' (by omega)
    · simp [eraseCell, hb, risingFrom, h.1, ih']

theorem risingFrom_insert (a lo : Nat) (v : α) (m : Cells α) (h : risingFrom lo m = true) (hl : lo ≤ a)
    (hn : ∀ e ∈ m, e.1 ≠ a) : risingFrom lo (insertCell a v m) = true := by
  induction m generalizing lo with
  | nil => simp [insertCell, risingFrom, hl]
  | cons e m ih =>
    obtain ⟨b, u⟩ := e
    simp only [risingFrom, Bool.and_eq_true, decide_eq_true_eq] at h
    have hb : b ≠ a := hn (b, u) (by simp)
    by_cases hab : a < b
    · simp [insertCell, hab, risingFrom, hl, h.2]
    · have := ih (b + 1) h.2 (by omega) (fun e' he' => hn e' (by simp [he']))
      simp [insertCell, hab, risingFrom, h.1, this]

theorem mem_insertCell (a : Nat) (v : α) (m : Cells α) (e : Nat × α) :
    e ∈ insertCell a v m ↔ e = (a, v) ∨ e ∈ m := by
  induction m with
  | nil => simp [insertCell]
  | cons f m ih =>
    obtain ⟨b, u⟩ := f
    by_cases hab : a < b
    · simp [insertCell, hab]
    · simp only [insertCell, hab, if_false, List.mem_cons, ih]
      tauto

/-- What a write can list: the cell written, unless its value is that of unlisted cells, and cells listed before. -/
theorem mem_writeCell [DecidableEq α] (d : α) (m : Cells α) (a : Nat) (v : α) (e : Nat × α)
    (h : e ∈ writeCell d m a v) : (e = (a, v) ∧ v ≠ d) ∨ e ∈ m := by
  by_cases hv : v = d
  · rw [writeCell, if_pos hv] at h
    exact .inr (List.mem_of_mem_filter h)
  · rw [writeCell, if_neg hv, mem_insertCell] at h
    exact h.elim (fun he => .inl ⟨he, hv⟩) (fun he => .inr (List.mem_of_mem_filter he))

theorem cellsWf_iff [DecidableEq α] (d : α) (size : Nat) (m : Cells α) :
    cellsWf d size m = true ↔ risingFrom 0 m = true ∧ ∀ e ∈ m, e.1 < size ∧ e.2 ≠ d := by
  simp [cellsWf]

/-- A write inside the space keeps the canonical form. -/
theorem cellsWf_writeCell [DecidableEq α] (d : α) (size : Nat) (m : Cells α) (a : Nat) (v : α)
    (h : cellsWf d size m = true) (ha : a < size) : cellsWf d size (writeCell d m a v) = true := by
  rw [cellsWf_iff] at h ⊢
  refine ⟨?_, fun e he => ?_⟩
  · by_cases hv : v = d
    · simpa [writeCell, hv] using risingFrom_erase a 0 m h.1
    · simpa [writeCell, hv] using
        risingFrom_insert a 0 v _ (risingFrom_erase a 0 m h.1) (Nat.zero_le a) (eraseCell_unlisted a m)
  · rcases mem_writeCell d m a v e he with ⟨rfl, hv⟩ | he'
    · exact ⟨ha, hv⟩
    · exact h.2 e he'

/-- An address below every listed one reads as an unlisted cell. -/
theorem readCell_below (d : α) (lo a : Nat) (m : Cells α) (h : risingFrom lo m = true) (ha : a < lo) :
    readCell d m a = d := by
  induction m generalizing lo with
  | nil => rfl
  | cons e m ih =>
    simp only [risingFrom, Bool.and_eq_true, decide_eq_true_eq] at h
    rw [readCell_cons, if_neg (by omega)]
    exact ih _ h.2 (by omega)

/-- In canonical form, memories that read alike are equal. -/
theorem rising_ext (d : α) (lo : Nat) (m m' : Cells α) (h : risingFrom lo m = true) (h' : risingFrom lo m' = true)
    (hd : ∀ e ∈ m, e.2 ≠ d) (hd' : ∀ e ∈ m', e.2 ≠ d) (hr : ∀ a, readCell d m a = readCell d m' a) : m = m' := by
  induction m generalizing lo m' with
  | nil =>
    cases m' with
    | nil => rfl
    | cons e' m' => exact absurd (by simpa [readCell_cons] using (hr e'.1).symm) (hd' e' (by simp))
  | cons e m ih =>
    cases m' with
    | nil => exact absurd (by simpa [readCell_cons] using hr e.1) (hd e (by simp))
    | cons e' m' =>
      simp only [risingFrom, Bool.and_eq_true, decide_eq_true_eq] at h h'
      have h1 := hr e.1
      have h2 := hr e'.1
      rw [readCell_cons, if_pos rfl, readCell_cons] at h1
      rw [readCell_cons, readCell_cons, if_pos rfl] at h2
      have hk : e'.1 = e.1 := by
        by_contra hne
        rw [if_neg hne] at h1
        rw [if_neg (Ne.symm hne)] at h2
        rcases Nat.lt_or_gt_of_ne hne with hlt | hgt
        · exact hd' e' (by simp) (h2.symm.trans (readCell_below d _ _ m h.2 (by omega)))
        · exact hd e (by simp) (h1.trans (readCell_below d _ _ m' h'.2 (by omega)))
      rw [if_pos hk] at h1
      have he : e = e' := Prod.ext hk.symm h1
      subst he
      refine congrArg _ (ih _ m' h.2 h'.2 (fun x hx => hd x (by simp [hx])) (fun x hx => hd' x (by simp [hx])) ?_)
      intro a
      by_cases hlt : a < e.1 + 1
      · rw [readCell_below d _ _ m h.2 hlt, readCell_below d _ _ m' h'.2 hlt]
      · have := hr a
        rwa [readCell_cons, readCell_cons, if_neg (by omega), if_neg (by omega)] at this

/-- In canonical form, memories that read alike are equal. -/
theorem cells_ext [DecidableEq α] (d : α) (size : Nat) (m m' : Cells α) (h : cellsWf d size m = true)
    (h' : cellsWf d size m' = true) (hr : ∀ a, readCell d m a = readCell d m' a) : m = m' := by
  rw [cellsWf_iff] at h h'
  exact rising_ext d 0 m m' h.1 h'.1 (fun e he => (h.2 e he).2) (fun e he => (h'.2 e he).2) hr

/-- An address outside the space reads as an unlisted cell. -/
theorem readCell_outside [DecidableEq α] (d : α) (size : Nat) (m : Cells α) (a : Nat) (h : cellsWf d size m = true)
    (ha : size ≤ a) : readCell d m a = d := by
  rw [cellsWf_iff] at h
  exact readCell_unlisted d m a (fun e he hea => by have := (h.2 e he).1; omega)

/-! ## The Memory Store -/

/-- A bulk write leaves the words outside its block alone. -/
theorem readCell_writeBlock_other (v : Cells VWord) (a : Nat) (ds : List VWord) (a' : Nat)
    (h : a' < a ∨ a + ds.length ≤ a') : readCell 0 (writeBlock v a ds) a' = readCell 0 v a' := by
  induction ds generalizing v a with
  | nil => rfl
  | cons d ds ih =>
    simp only [List.length_cons] at h
    rw [writeBlock, ih _ _ (by omega), readCell_writeCell_other _ _ _ _ _ (by omega)]

/-- A bulk write puts data word `k` at word `a + k`. -/
theorem readCell_writeBlock_inside (v : Cells VWord) (a : Nat) (ds : List VWord) (k : Nat) (h : k < ds.length) :
    readCell 0 (writeBlock v a ds) (a + k) = ds[k] := by
  induction ds generalizing v a k with
  | nil => simp at h
  | cons d ds ih =>
    cases k with
    | zero => rw [writeBlock, readCell_writeBlock_other _ _ _ _ (by omega)]; simp
    | succ k =>
      have := ih (writeCell 0 v a d) (a + 1) k (by simpa using h)
      rw [writeBlock, show a + (k + 1) = a + 1 + k by omega, this]
      simp

theorem cellsWf_writeBlock (v : Cells VWord) (a : Nat) (ds : List VWord) (h : cellsWf 0 vramSize v = true)
    (ha : a + ds.length ≤ vramSize) : cellsWf 0 vramSize (writeBlock v a ds) = true := by
  induction ds generalizing v a with
  | nil => exact h
  | cons d ds ih =>
    simp only [List.length_cons] at ha
    exact ih _ _ (cellsWf_writeCell 0 vramSize v a d h (by omega)) (by omega)

theorem Memory.wf_iff (m : Memory) :
    m.wf = true ↔ cellsWf 0 vramSize m.vram = true ∧ cellsWf 0 cgramSize m.cgram = true
      ∧ cellsWf blankLow oamSize m.oamLow = true ∧ cellsWf blankHigh oamSize m.oamHigh = true := by
  simp [Memory.wf, and_assoc]

/-- Every memory operation keeps the canonical form. -/
theorem Memory.wf_writeVram (m : Memory) (off : Nat) (ds : List VWord) (h : m.wf = true)
    (ho : off + ds.length ≤ vramSize) : (writeVram m off ds).wf = true := by
  rw [Memory.wf_iff] at h ⊢
  exact ⟨cellsWf_writeBlock _ _ _ h.1 ho, h.2⟩

theorem Memory.wf_writeCgram (m : Memory) (i : Nat) (v : Colour15) (h : m.wf = true) (hi : i < cgramSize) :
    (writeCgram m i v).wf = true := by
  rw [Memory.wf_iff] at h ⊢
  exact ⟨h.1, cellsWf_writeCell _ _ _ _ _ h.2.1 hi, h.2.2⟩

theorem Memory.wf_writeOam (m : Memory) (i : Nat) (l : OamLow) (g : OamHigh) (h : m.wf = true) (hi : i < oamSize) :
    (writeOam m i l g).wf = true := by
  rw [Memory.wf_iff] at h ⊢
  exact ⟨h.1, h.2.1, cellsWf_writeCell _ _ _ _ _ h.2.2.1 hi, cellsWf_writeCell _ _ _ _ _ h.2.2.2 hi⟩

/-- Memories with nothing listed are in canonical form. -/
theorem Memory.wf_blank : Memory.blank.wf = true := by decide

/-! ### Reads after the writes of the Memory Store -/

theorem readVram_writeVram_inside (m : Memory) (off : Nat) (ds : List VWord) (k : Nat) (h : k < ds.length) :
    readVram (writeVram m off ds) (off + k) = ds[k] := readCell_writeBlock_inside _ _ _ _ h

theorem readVram_writeVram_other (m : Memory) (off : Nat) (ds : List VWord) (a : Nat)
    (h : a < off ∨ off + ds.length ≤ a) : readVram (writeVram m off ds) a = readVram m a :=
  readCell_writeBlock_other _ _ _ _ h

@[simp] theorem readCgram_writeVram (m : Memory) (off : Nat) (ds : List VWord) (i : Nat) :
    readCgram (writeVram m off ds) i = readCgram m i := rfl
@[simp] theorem readLow_writeVram (m : Memory) (off : Nat) (ds : List VWord) (i : Nat) :
    readLow (writeVram m off ds) i = readLow m i := rfl
@[simp] theorem readHigh_writeVram (m : Memory) (off : Nat) (ds : List VWord) (i : Nat) :
    readHigh (writeVram m off ds) i = readHigh m i := rfl

@[simp] theorem readCgram_writeCgram_same (m : Memory) (i : Nat) (v : Colour15) :
    readCgram (writeCgram m i v) i = v := readCell_writeCell_same _ _ _ _
theorem readCgram_writeCgram_other (m : Memory) (i j : Nat) (v : Colour15) (h : j ≠ i) :
    readCgram (writeCgram m i v) j = readCgram m j := readCell_writeCell_other _ _ _ _ _ h
@[simp] theorem readVram_writeCgram (m : Memory) (i : Nat) (v : Colour15) (a : Nat) :
    readVram (writeCgram m i v) a = readVram m a := rfl
@[simp] theorem readLow_writeCgram (m : Memory) (i : Nat) (v : Colour15) (j : Nat) :
    readLow (writeCgram m i v) j = readLow m j := rfl
@[simp] theorem readHigh_writeCgram (m : Memory) (i : Nat) (v : Colour15) (j : Nat) :
    readHigh (writeCgram m i v) j = readHigh m j := rfl

@[simp] theorem readLow_writeOam_same (m : Memory) (i : Nat) (l : OamLow) (g : OamHigh) :
    readLow (writeOam m i l g) i = l := readCell_writeCell_same _ _ _ _
@[simp] theorem readHigh_writeOam_same (m : Memory) (i : Nat) (l : OamLow) (g : OamHigh) :
    readHigh (writeOam m i l g) i = g := readCell_writeCell_same _ _ _ _
theorem readLow_writeOam_other (m : Memory) (i j : Nat) (l : OamLow) (g : OamHigh) (h : j ≠ i) :
    readLow (writeOam m i l g) j = readLow m j := readCell_writeCell_other _ _ _ _ _ h
theorem readHigh_writeOam_other (m : Memory) (i j : Nat) (l : OamLow) (g : OamHigh) (h : j ≠ i) :
    readHigh (writeOam m i l g) j = readHigh m j := readCell_writeCell_other _ _ _ _ _ h
@[simp] theorem readVram_writeOam (m : Memory) (i : Nat) (l : OamLow) (g : OamHigh) (a : Nat) :
    readVram (writeOam m i l g) a = readVram m a := rfl
@[simp] theorem readCgram_writeOam (m : Memory) (i : Nat) (l : OamLow) (g : OamHigh) (j : Nat) :
    readCgram (writeOam m i l g) j = readCgram m j := rfl

/-! ### Rows of the frame buffer -/

@[simp] theorem fbRow_writeRow_same (c : Config) (fb : FrameBuf) (y : Nat) (r : Row) :
    fbRow c (writeRow c fb y r) y = r := readCell_writeCell_same _ _ _ _

theorem fbRow_writeRow_other (c : Config) (fb : FrameBuf) (y y' : Nat) (r : Row) (h : y' ≠ y) :
    fbRow c (writeRow c fb y r) y' = fbRow c fb y' := readCell_writeCell_other _ _ _ _ _ h

/-- Writing a row of the right width, below `H_LINES`, keeps the frame buffer's canonical form. -/
theorem fbWf_writeRow (c : Config) (fb : FrameBuf) (y : Nat) (r : Row) (h : fbWf c fb = true) (hy : y < c.hLines)
    (hr : r.length = c.width) : fbWf c (writeRow c fb y r) = true := by
  simp only [fbWf, Bool.and_eq_true, List.all_eq_true, decide_eq_true_eq] at h ⊢
  refine ⟨cellsWf_writeCell _ _ _ _ _ h.1 hy, fun e he => ?_⟩
  rcases mem_writeCell _ _ _ _ e he with ⟨rfl, -⟩ | he'
  · exact hr
  · exact h.2 e he'

end Sys2Proof.Machine
end

