-- ==== Sys2Proof/Laws/Registers.lean ====
section
/-! SUPPORT. The laws of the register file: a read after a write, and every other register unchanged. -/

namespace Sys2Proof.Machine

/-- A register holds `val mod 2^width` after `WR_REG NAME, val` (46_register_write_commands.md R261). -/
theorem getReg_setReg_same (g : Regs) (r : RegName) (v : BitVec 16) :
    (getReg (setReg g r v) r).toNat = v.toNat % 2 ^ regWidth r := by
  have hv := v.isLt
  cases r <;> simp only [getReg, setReg, regWidth, BitVec.toNat_setWidth] <;> omega

/-- A write to one register leaves the other 45 alone. -/
theorem getReg_setReg_other (g : Regs) (r r' : RegName) (v : BitVec 16) (h : r' ≠ r) :
    getReg (setReg g r v) r' = getReg g r' := by
  cases r <;> cases r' <;> first | rfl | exact absurd rfl h

/-- Every register is 0 after reset (70_reset_and_hazards.md R371). -/
theorem getReg_zero (r : RegName) : getReg Regs.zero r = 0 := by cases r <;> rfl

/-- The number of a register names that register (10_state.md R30). -/
theorem ofNumber_number (r : RegName) : RegName.ofNumber r.number = some r := by cases r <;> decide

/-- A register number is below 0x2E (10_state.md R28). -/
theorem number_lt (r : RegName) : r.number < 0x2E := by cases r <;> decide

/-- No number from 0x2E on names a register (30_encoding.md R112). -/
theorem ofNumber_none (n : Nat) (h : 0x2E ≤ n) : RegName.ofNumber n = none := by
  refine List.find?_eq_none.mpr (fun r _ => ?_)
  have := number_lt r
  simp
  omega

/-- Every number up to 0x2D names a register (10_state.md R28). -/
theorem ofNumber_some (n : Nat) (h : n ≤ 0x2D) : ∃ r, RegName.ofNumber n = some r := by
  have : ∀ k : Fin 46, (RegName.ofNumber k).isSome = true := by decide
  exact Option.isSome_iff_exists.1 (this ⟨n, by omega⟩)

/-- The register a number names has that number. -/
theorem number_of_ofNumber (n : Nat) (r : RegName) (h : RegName.ofNumber n = some r) : r.number = n := by
  simpa using List.find?_some h

end Sys2Proof.Machine

namespace Sys2Proof

/-- A property of every command: the eight opcodes one by one, all `WR_REG` forms as one (30_encoding.md R110). -/
theorem Instr.byForm {P : Instr → Prop} (nop : P .nop) (wrVram : ∀ e o ds, P (.wrVram e o ds))
    (wrCgram : ∀ e i v, P (.wrCgram e i v)) (wrOam : ∀ e i f, P (.wrOam e i f))
    (wrReg : ∀ r e v, P (regInstr r e v)) (renderLine : ∀ n, P (.renderLine n)) (renderFrame : P .renderFrame)
    (getFrame : P .getFrame) : ∀ i, P i
  | .nop => nop
  | .wrVram e o ds => wrVram e o ds
  | .wrCgram e i v => wrCgram e i v
  | .wrOam e i f => wrOam e i f
  | .wrBright e v => wrReg .bright e v
  | .wrBgmode e v => wrReg .bgmode e v
  | .wrMosaic e v => wrReg .mosaic e v
  | .wrMosaicph e v => wrReg .mosaicph e v
  | .wrBg1sc e v => wrReg .bg1sc e v
  | .wrBg2sc e v => wrReg .bg2sc e v
  | .wrBg3sc e v => wrReg .bg3sc e v
  | .wrBg4sc e v => wrReg .bg4sc e v
  | .wrBg1nba e v => wrReg .bg1nba e v
  | .wrBg2nba e v => wrReg .bg2nba e v
  | .wrBg3nba e v => wrReg .bg3nba e v
  | .wrBg4nba e v => wrReg .bg4nba e v
  | .wrBg1hofs e v => wrReg .bg1hofs e v
  | .wrBg2hofs e v => wrReg .bg2hofs e v
  | .wrBg3hofs e v => wrReg .bg3hofs e v
  | .wrBg4hofs e v => wrReg .bg4hofs e v
  | .wrBg1vofs e v => wrReg .bg1vofs e v
  | .wrBg2vofs e v => wrReg .bg2vofs e v
  | .wrBg3vofs e v => wrReg .bg3vofs e v
  | .wrBg4vofs e v => wrReg .bg4vofs e v
  | .wrObsel e v => wrReg .obsel e v
  | .wrM7sel e v => wrReg .m7sel e v
  | .wrM7a e v => wrReg .m7a e v
  | .wrM7b e v => wrReg .m7b e v
  | .wrM7c e v => wrReg .m7c e v
  | .wrM7d e v => wrReg .m7d e v
  | .wrM7x e v => wrReg .m7x e v
  | .wrM7y e v => wrReg .m7y e v
  | .wrWh0 e v => wrReg .wh0 e v
  | .wrWh1 e v => wrReg .wh1 e v
  | .wrWh2 e v => wrReg .wh2 e v
  | .wrWh3 e v => wrReg .wh3 e v
  | .wrWselBg1 e v => wrReg .wselBg1 e v
  | .wrWselBg2 e v => wrReg .wselBg2 e v
  | .wrWselBg3 e v => wrReg .wselBg3 e v
  | .wrWselBg4 e v => wrReg .wselBg4 e v
  | .wrWselObj e v => wrReg .wselObj e v
  | .wrWselCol e v => wrReg .wselCol e v
  | .wrTm e v => wrReg .tm e v
  | .wrTs e v => wrReg .ts e v
  | .wrTmw e v => wrReg .tmw e v
  | .wrTsw e v => wrReg .tsw e v
  | .wrCgwsel e v => wrReg .cgwsel e v
  | .wrCgadsub e v => wrReg .cgadsub e v
  | .wrFixedcolor e v => wrReg .fixedcolor e v
  | .wrInterlace e v => wrReg .interlace e v
  | .renderLine n => renderLine n
  | .renderFrame => renderFrame
  | .getFrame => getFrame

@[simp] theorem encode_regInstr (r : RegName) (e : Tag) (v : BitVec 16) :
    encode (regInstr r e v) = encodeReg r e v := by cases r <;> rfl

@[simp] theorem wellFormed_regInstr (r : RegName) (e : Tag) (v : BitVec 16) :
    (regInstr r e v).wellFormed = true := by cases r <;> rfl

end Sys2Proof
end

