-- ==== Sys2Proof/Laws/Ops.lean ====
section
/-! SUPPORT. What the shared operations can do, said once: `acceptWrite`, `applyAct`, `applyActs`, `commit`, `fetch`. -/

namespace Sys2Proof.Machine

/-! ## Accepting a write -/

/-- A tag outside `NEXT ..  H_LINES − 1` is `E_TAG` (40_memory_write_commands.md R140). -/
theorem acceptWrite_badTag (e : Tag) (a : WriteAct) (s : State) (h : ¬ tagLegal s e) :
    acceptWrite e a s = reject s .eTag := by
  unfold tagLegal at h
  unfold acceptWrite
  rw [if_pos (by omega)]

/-- A write tagged `NEXT` is applied at once (R140). -/
theorem acceptWrite_now (e : Tag) (a : WriteAct) (s : State) (h : e.toNat = s.next) (hl : s.next < s.cfg.hLines) :
    acceptWrite e a s = respond (applyAct a s) .ok := by
  unfold acceptWrite
  rw [if_neg (by omega), if_pos h]

/-- A write tagged later, with a full queue, is `E_FULL` (R140). -/
theorem acceptWrite_full (e : Tag) (a : WriteAct) (s : State) (h : s.next < e.toNat) (hl : e.toNat < s.cfg.hLines)
    (hq : queueFull s = true) : acceptWrite e a s = reject s .eFull := by
  unfold acceptWrite
  rw [if_neg (by omega), if_neg (by omega), if_pos hq]

/-- A write tagged later is queued (R140). -/
theorem acceptWrite_queued (e : Tag) (a : WriteAct) (s : State) (h : s.next < e.toNat) (hl : e.toNat < s.cfg.hLines)
    (hq : queueFull s = false) :
    acceptWrite e a s = respond (s.withPending (s.pending ++ [{ eff := e, act := a }])) .ok := by
  unfold acceptWrite
  rw [if_neg (by omega), if_neg (by omega), if_neg (by simp [hq])]

/-- All that accepting a write can do. -/
theorem acceptWrite_cases (e : Tag) (a : WriteAct) (s : State) :
    (acceptWrite e a s = reject s .eTag ∧ ¬ tagLegal s e) ∨
    (acceptWrite e a s = respond (applyAct a s) .ok ∧ e.toNat = s.next ∧ s.next < s.cfg.hLines) ∨
    (acceptWrite e a s = reject s .eFull ∧ s.next < e.toNat ∧ e.toNat < s.cfg.hLines ∧ queueFull s = true) ∨
    (acceptWrite e a s = respond (s.withPending (s.pending ++ [{ eff := e, act := a }])) .ok ∧
      s.next < e.toNat ∧ e.toNat < s.cfg.hLines ∧ queueFull s = false) := by
  by_cases ht : tagLegal s e
  · obtain ⟨h1, h2⟩ := ht
    by_cases hn : e.toNat = s.next
    · exact .inr (.inl ⟨acceptWrite_now e a s hn (by omega), hn, by omega⟩)
    · cases hq : queueFull s with
      | true => exact .inr (.inr (.inl ⟨acceptWrite_full e a s (by omega) h2 hq, by omega, h2, rfl⟩))
      | false => exact .inr (.inr (.inr ⟨acceptWrite_queued e a s (by omega) h2 hq, by omega, h2, rfl⟩))
  · exact .inl ⟨acceptWrite_badTag e a s ht, ht⟩

/-! ## Applying writes -/

@[simp] theorem applyAct_cfg (a : WriteAct) (s : State) : (applyAct a s).cfg = s.cfg := by cases a <;> rfl
@[simp] theorem applyAct_seq (a : WriteAct) (s : State) : (applyAct a s).seq = s.seq := by cases a <;> rfl
@[simp] theorem applyAct_pending (a : WriteAct) (s : State) : (applyAct a s).pending = s.pending := by cases a <;> rfl
@[simp] theorem applyAct_objbuf (a : WriteAct) (s : State) : (applyAct a s).objbuf = s.objbuf := by cases a <;> rfl
@[simp] theorem applyAct_mainbuf (a : WriteAct) (s : State) : (applyAct a s).mainbuf = s.mainbuf := by cases a <;> rfl
@[simp] theorem applyAct_subbuf (a : WriteAct) (s : State) : (applyAct a s).subbuf = s.subbuf := by cases a <;> rfl
@[simp] theorem applyAct_fb (a : WriteAct) (s : State) : (applyAct a s).fb = s.fb := by cases a <;> rfl
@[simp] theorem applyAct_stream (a : WriteAct) (s : State) : (applyAct a s).stream = s.stream := by cases a <;> rfl
@[simp] theorem applyAct_resp (a : WriteAct) (s : State) : (applyAct a s).resp = s.resp := by cases a <;> rfl

@[simp] theorem applyActs_cfg (as : List WriteAct) (s : State) : (applyActs as s).cfg = s.cfg := by
  induction as generalizing s with
  | nil => rfl
  | cons a as ih => simp [applyActs, ih]
@[simp] theorem applyActs_seq (as : List WriteAct) (s : State) : (applyActs as s).seq = s.seq := by
  induction as generalizing s with
  | nil => rfl
  | cons a as ih => simp [applyActs, ih]
@[simp] theorem applyActs_pending (as : List WriteAct) (s : State) : (applyActs as s).pending = s.pending := by
  induction as generalizing s with
  | nil => rfl
  | cons a as ih => simp [applyActs, ih]
@[simp] theorem applyActs_objbuf (as : List WriteAct) (s : State) : (applyActs as s).objbuf = s.objbuf := by
  induction as generalizing s with
  | nil => rfl
  | cons a as ih => simp [applyActs, ih]
@[simp] theorem applyActs_mainbuf (as : List WriteAct) (s : State) : (applyActs as s).mainbuf = s.mainbuf := by
  induction as generalizing s with
  | nil => rfl
  | cons a as ih => simp [applyActs, ih]
@[simp] theorem applyActs_subbuf (as : List WriteAct) (s : State) : (applyActs as s).subbuf = s.subbuf := by
  induction as generalizing s with
  | nil => rfl
  | cons a as ih => simp [applyActs, ih]
@[simp] theorem applyActs_fb (as : List WriteAct) (s : State) : (applyActs as s).fb = s.fb := by
  induction as generalizing s with
  | nil => rfl
  | cons a as ih => simp [applyActs, ih]
@[simp] theorem applyActs_stream (as : List WriteAct) (s : State) : (applyActs as s).stream = s.stream := by
  induction as generalizing s with
  | nil => rfl
  | cons a as ih => simp [applyActs, ih]
@[simp] theorem applyActs_resp (as : List WriteAct) (s : State) : (applyActs as s).resp = s.resp := by
  induction as generalizing s with
  | nil => rfl
  | cons a as ih => simp [applyActs, ih]

/-- What no act outside `P` changes, acts outside `P` leave as it is. -/
theorem applyActs_keeps {α : Type} (P : WriteAct → Prop) (f : State → α)
    (h : ∀ a s, ¬ P a → f (applyAct a s) = f s) (as : List WriteAct) (s : State) (hn : ∀ a ∈ as, ¬ P a) :
    f (applyActs as s) = f s := by
  induction as generalizing s with
  | nil => rfl
  | cons a as ih => rw [applyActs, ih _ (fun b hb => hn b (by simp [hb])), h _ _ (hn a (by simp))]

/-- A legal act keeps the canonical form of the Memory Store. -/
theorem applyAct_memWf (a : WriteAct) (s : State) (h : s.mem.wf = true) (ha : actWf a = true) :
    (applyAct a s).mem.wf = true := by
  cases a with
  | vram off data => exact Memory.wf_writeVram _ _ _ h (by simpa [actWf] using ha)
  | cgram idx val => exact Memory.wf_writeCgram _ _ _ h (by simpa [actWf] using ha)
  | oam idx low high => exact Memory.wf_writeOam _ _ _ _ h (by simpa [actWf] using ha)
  | reg r val => exact h

/-- Legal acts keep the canonical form of the Memory Store. -/
theorem applyActs_memWf (as : List WriteAct) (s : State) (h : s.mem.wf = true)
    (ha : ∀ a ∈ as, actWf a = true) : (applyActs as s).mem.wf = true := by
  induction as generalizing s with
  | nil => exact h
  | cons a as ih =>
    exact ih _ (applyAct_memWf a s h (ha a (by simp))) (fun b hb => ha b (by simp [hb]))

/-- With nothing due, the acts due are none. -/
theorem dueActs_nil (n : Nat) (p : List PendingWrite) (h : ∀ e ∈ p, e.eff.toNat ≠ n) : dueActs n p = [] := by
  simp only [dueActs, List.map_eq_nil_iff, List.filter_eq_nil_iff, beq_iff_eq]
  exact h

/-- With nothing due, every entry stays queued. -/
theorem stillQueued_all (n : Nat) (p : List PendingWrite) (h : ∀ e ∈ p, e.eff.toNat ≠ n) : stillQueued n p = p := by
  simp only [stillQueued, List.filter_eq_self, bne_iff_ne, ne_eq]
  exact h

/-- An act that is due is that of an entry of `PENDING`. -/
theorem mem_dueActs (n : Nat) (p : List PendingWrite) (a : WriteAct) :
    a ∈ dueActs n p ↔ ∃ e ∈ p, e.eff.toNat = n ∧ e.act = a := by
  simp [dueActs, and_assoc]

/-! ## The commit point -/

@[simp] theorem commit_cfg (n : Nat) (s : State) : (commit n s).cfg = s.cfg := by simp [commit]
@[simp] theorem commit_seq (n : Nat) (s : State) : (commit n s).seq = s.seq := by simp [commit]
@[simp] theorem commit_objbuf (n : Nat) (s : State) : (commit n s).objbuf = s.objbuf := by simp [commit]
@[simp] theorem commit_mainbuf (n : Nat) (s : State) : (commit n s).mainbuf = s.mainbuf := by simp [commit]
@[simp] theorem commit_subbuf (n : Nat) (s : State) : (commit n s).subbuf = s.subbuf := by simp [commit]
@[simp] theorem commit_fb (n : Nat) (s : State) : (commit n s).fb = s.fb := by simp [commit]
@[simp] theorem commit_stream (n : Nat) (s : State) : (commit n s).stream = s.stream := by simp [commit]
@[simp] theorem commit_resp (n : Nat) (s : State) : (commit n s).resp = s.resp := by simp [commit]
@[simp] theorem commit_pending (n : Nat) (s : State) : (commit n s).pending = stillQueued n s.pending := by
  simp [commit]

/-- A commit point with no entry due changes nothing. -/
theorem commit_none (n : Nat) (s : State) (h : ∀ e ∈ s.pending, e.eff.toNat ≠ n) : commit n s = s := by
  rw [commit, dueActs_nil n _ h, stillQueued_all n _ h]
  rfl

/-- The commit point applies the acts that were queued, and only those. -/
theorem commit_memWf (n : Nat) (s : State) (h : s.mem.wf = true) (hp : ∀ e ∈ s.pending, actWf e.act = true) :
    (commit n s).mem.wf = true := by
  refine applyActs_memWf _ _ h (fun a ha => ?_)
  obtain ⟨e, he, -, rfl⟩ := (mem_dueActs _ _ _).1 ha
  exact hp e he

/-! ## The command port -/

/-- All that `fetch` can find; it takes words from the port and touches nothing else. -/
theorem fetch_cases (s : State) :
    fetch s = .none ∨ (∃ ws, fetch s = .illegal (s.withStream ws)) ∨ (∃ i ws, fetch s = .command i (s.withStream ws)) := by
  unfold fetch
  split
  · exact .inl rfl
  · exact .inl rfl
  · exact .inr (.inl ⟨_, rfl⟩)
  · exact .inr (.inr ⟨_, _, rfl⟩)

end Sys2Proof.Machine
end

