-- ==== Sys2Proof/Laws/Render.lean ====
section
/-! SUPPORT. What a scanline can do, said once: the lengths of the buffers, the frame of `drawLine`, `endLine`, `line`
and `linesFrom`, and the small lemmas of the sprite line buffer and the compositor. -/

namespace Sys2Proof.Machine

/-! ## OBJBUF -/

@[simp] theorem putObj_length (c : Config) (buf : List (Option ObjPixel)) (x : Int) (p : ObjPixel) :
    (putObj c buf x p).length = buf.length := by
  unfold putObj
  split
  · rfl
  · dsimp only
    split <;> simp

@[simp] theorem drawPixels_length (c : Config) (low : OamLow) (w0 w1 : VWord) (x : Int) (ps : List Nat)
    (buf : List (Option ObjPixel)) : (drawPixels c low w0 w1 x ps buf).length = buf.length := by
  induction ps generalizing buf with
  | nil => rfl
  | cons p ps ih =>
    simp only [drawPixels, ih]
    split <;> simp

@[simp] theorem drawTile_length (sc : Scene) (e : Sprite) (w row col : Nat) (buf : List (Option ObjPixel)) :
    (drawTile sc e w row col buf).length = buf.length := by simp [drawTile]

@[simp] theorem scanTiles_length (sc : Scene) (e : Sprite) (w row : Nat) (cols : List Nat) (a : ObjScan) :
    (scanTiles sc e w row cols a).1.buf.length = a.buf.length := by
  induction cols generalizing a with
  | nil => rfl
  | cons col cols ih =>
    unfold scanTiles
    split
    · split
      · rfl
      · simp [ih]
    · exact ih a

@[simp] theorem scanSprites_length (sc : Scene) (y : Nat) (is : List Nat) (a : ObjScan) :
    (scanSprites sc y is a).buf.length = a.buf.length := by
  induction is generalizing a with
  | nil => rfl
  | cons i is ih =>
    unfold scanSprites
    dsimp only
    split
    · exact ih a
    · split
      · rfl
      · split <;> simp [ih]

/-- `OBJBUF` has one cell for each X of `XRANGE` (10_state.md R63). -/
@[simp] theorem lineObj_length (sc : Scene) (n : Nat) : (lineObj sc n).length = sc.cfg.width := by
  simp [lineObj, evalSprites, ObjScan.start]

/-! ## Screens and rows -/

/-- `MAINBUF` has one cell for each X of `XRANGE` (10_state.md R64). -/
@[simp] theorem lineMain_length (sc : Scene) (n : Nat) : (lineMain sc n).length = sc.cfg.width := by
  simp [lineMain, buildScreen]

/-- `SUBBUF` has one cell for each X of `XRANGE` (10_state.md R64). -/
@[simp] theorem lineSub_length (sc : Scene) (n : Nat) : (lineSub sc n).length = sc.cfg.width := by
  simp [lineSub, buildScreen]

/-- A row has `WIDTH` pixels (10_state.md R65). -/
@[simp] theorem lineRow_length (sc : Scene) (n : Nat) : (lineRow sc n).length = sc.cfg.width := by
  simp [lineRow, outputRow]

/-- The cell of a screen buffer at a column of the picture. -/
theorem buildScreen_getD (sc : Scene) (s : Screen) (ob : List (Option ObjPixel)) (y col : Nat) (d : ScreenCell)
    (h : col < sc.cfg.width) :
    (buildScreen sc s ob y).getD col d = mergeCell sc s (ob.getD col none) (columnX sc.cfg col) y := by
  simp [buildScreen, List.getD, h]

/-- The pixel of a row at a column of the picture. -/
theorem outputRow_getD (sc : Scene) (m b : List ScreenCell) (col : Nat) (d : Pixel) (h : col < sc.cfg.width) :
    (outputRow sc m b).getD col d =
      outputPixel sc (m.getD col (backdrop sc.regs .main)) (b.getD col (backdrop sc.regs .sub)) (columnX sc.cfg col) := by
  simp [outputRow, List.getD, h]

/-- The cell of a screen buffer at a column, from the cell of `OBJBUF` there (44_compositor.md R218). -/
theorem buildScreen_get (sc : Scene) (s : Screen) (ob : List (Option ObjPixel)) (y col : Nat) (o : Option ObjPixel)
    (h : col < sc.cfg.width) (ho : ob[col]? = some o) :
    (buildScreen sc s ob y)[col]? = some (mergeCell sc s o (columnX sc.cfg col) y) := by
  simp [buildScreen, List.getD, h, ho]

/-- The pixel of a row at a column, from the cells of `MAINBUF` and `SUBBUF` there (45_color_math.md R250). -/
theorem outputRow_get (sc : Scene) (mb sb : List ScreenCell) (col : Nat) (m b : ScreenCell) (h : col < sc.cfg.width)
    (hm : mb[col]? = some m) (hb : sb[col]? = some b) :
    (outputRow sc mb sb)[col]? = some (outputPixel sc m b (columnX sc.cfg col)) := by
  simp [outputRow, List.getD, h, hm, hb]

/-- An offer keeps the cell or replaces it by the candidate (44_compositor.md R224). -/
theorem offer_cases (a b : ScreenCell) : (offer a b = a ∧ b.z ≤ a.z) ∨ (offer a b = b ∧ a.z < b.z) := by
  unfold offer
  split
  · exact .inr ⟨rfl, ‹_›⟩
  · exact .inl ⟨rfl, by omega⟩

/-- All that a background layer can show: nothing, the Mode 7 unit's pixel, or in modes 0 to 4 the tile renderer's at
the depth MODEDEF gives (R151, R153, R218). -/
theorem layerPixel_cases (sc : Scene) (l : Bg) (x : Int) (y : Nat) :
    layerPixel sc l x y = none ∨
    (bgMode sc.regs = 7 ∧ layerPresent (layerDef (modeRow sc.cfg 7) l) sc.regs = true ∧
      layerPixel sc l x y = m7Pixel sc l x y) ∨
    (bgMode sc.regs ≤ 4 ∧ layerBpp (layerDef (modeRow sc.cfg (bgMode sc.regs)) l) ≠ 0 ∧
      layerPixel sc l x y = bgPixel sc l (layerBpp (layerDef (modeRow sc.cfg (bgMode sc.regs)) l)) x y) := by
  have hlt : bgMode sc.regs < 8 := (sc.regs.bgmode.extractLsb' 0 3).isLt
  unfold layerPixel
  dsimp only
  split
  · exact .inl rfl
  · rename_i hp
    split
    · rename_i h7
      exact .inr (.inl ⟨h7, by simpa [h7] using hp, rfl⟩)
    · split
      · exact .inl rfl
      · split
        · exact .inl rfl
        · exact .inr (.inr ⟨by omega, ‹_›, rfl⟩)

/-- What a background layer offers: its pixel's cell, where it is enabled and not hidden (R218, R225). -/
theorem mem_bgOffers (sc : Scene) (s : Screen) (x : Int) (y : Nat) (l : Bg) (c : ScreenCell) :
    c ∈ bgOffers sc s x y l ↔
      layerVisible sc.regs s (.bg l) x = true ∧ ∃ p, layerPixel sc l x y = some p ∧ c = bgCell sc l p := by
  unfold bgOffers
  cases layerVisible sc.regs s (.bg l) x <;> cases layerPixel sc l x y <;> simp

/-- What the sprite layer offers: the cell of `OBJBUF`'s pixel, where it is enabled and not hidden (R218, R225). -/
theorem mem_objOffers (sc : Scene) (s : Screen) (x : Int) (o : Option ObjPixel) (c : ScreenCell) :
    c ∈ objOffers sc s x o ↔ layerVisible sc.regs s .obj x = true ∧ ∃ q, o = some q ∧ c = objCell sc q := by
  unfold objOffers
  cases layerVisible sc.regs s .obj x <;> cases o <;> simp

/-- All that is offered at a position: by some background layer, or by the sprite layer (R218). -/
theorem mem_offersAt (sc : Scene) (s : Screen) (o : Option ObjPixel) (x : Int) (y : Nat) (c : ScreenCell) :
    c ∈ offersAt sc s o x y ↔ (∃ l, c ∈ bgOffers sc s x y l) ∨ c ∈ objOffers sc s x o := by
  simp only [offersAt, List.mem_append]
  constructor
  · rintro ((((h | h) | h) | h) | h)
    exacts [.inl ⟨_, h⟩, .inl ⟨_, h⟩, .inl ⟨_, h⟩, .inl ⟨_, h⟩, .inr h]
  · rintro (⟨l, h⟩ | h)
    · cases l <;> simp [h]
    · exact .inr h

/-- A layer is visible iff its enable is set and not both its window bit and its window (R218, R225). -/
theorem layerVisible_iff (g : Regs) (s : Screen) (k : Src) (x : Int) :
    layerVisible g s k x = true ↔
      (screenEn g s).getLsbD k.num = true ∧ ¬ ((screenWinEn g s).getLsbD k.num = true ∧ win g k x = true) := by
  simp only [layerVisible, layerBit]
  cases (screenEn g s).getLsbD k.num <;> cases (screenWinEn g s).getLsbD k.num <;> cases win g k x <;> simp

/-! ## One scanline -/

@[simp] theorem drawLine_cfg (n : Nat) (s : State) : (drawLine n s).cfg = s.cfg := rfl
@[simp] theorem drawLine_mem (n : Nat) (s : State) : (drawLine n s).mem = s.mem := rfl
@[simp] theorem drawLine_regs (n : Nat) (s : State) : (drawLine n s).regs = s.regs := rfl
@[simp] theorem drawLine_seq (n : Nat) (s : State) : (drawLine n s).seq = s.seq := rfl
@[simp] theorem drawLine_pending (n : Nat) (s : State) : (drawLine n s).pending = s.pending := rfl
@[simp] theorem drawLine_stream (n : Nat) (s : State) : (drawLine n s).stream = s.stream := rfl
@[simp] theorem drawLine_resp (n : Nat) (s : State) : (drawLine n s).resp = s.resp := rfl
@[simp] theorem drawLine_objbuf (n : Nat) (s : State) : (drawLine n s).objbuf = lineObj s.scene n := rfl
@[simp] theorem drawLine_mainbuf (n : Nat) (s : State) : (drawLine n s).mainbuf = lineMain s.scene n := rfl
@[simp] theorem drawLine_subbuf (n : Nat) (s : State) : (drawLine n s).subbuf = lineSub s.scene n := rfl
@[simp] theorem drawLine_fb (n : Nat) (s : State) :
    (drawLine n s).fb = writeRow s.cfg s.fb n (lineRow s.scene n) := rfl

@[simp] theorem endLine_cfg (n : Nat) (s : State) : (endLine n s).cfg = s.cfg := by
  unfold endLine
  split <;> simp
@[simp] theorem endLine_objbuf (n : Nat) (s : State) : (endLine n s).objbuf = s.objbuf := by
  unfold endLine
  split <;> simp
@[simp] theorem endLine_mainbuf (n : Nat) (s : State) : (endLine n s).mainbuf = s.mainbuf := by
  unfold endLine
  split <;> simp
@[simp] theorem endLine_subbuf (n : Nat) (s : State) : (endLine n s).subbuf = s.subbuf := by
  unfold endLine
  split <;> simp
@[simp] theorem endLine_fb (n : Nat) (s : State) : (endLine n s).fb = s.fb := by
  unfold endLine
  split <;> simp
@[simp] theorem endLine_stream (n : Nat) (s : State) : (endLine n s).stream = s.stream := by
  unfold endLine
  split <;> simp
@[simp] theorem endLine_resp (n : Nat) (s : State) : (endLine n s).resp = s.resp := by
  unfold endLine
  split <;> simp

/-- `SEQ` after a scanline (47_render_commands.md R321, R328). -/
theorem endLine_seq (n : Nat) (s : State) :
    (endLine n s).seq = if n + 1 = s.cfg.hLines then .frameComplete else .scanlineInProgress n := by
  unfold endLine
  split <;> simp

/-- The last scanline has no commit point; any other has one, before the scanline that follows (R321). -/
theorem endLine_cases (n : Nat) (s : State) :
    (n + 1 = s.cfg.hLines ∧ endLine n s = s.withSeq .frameComplete) ∨
    (n + 1 ≠ s.cfg.hLines ∧ endLine n s = commit (n + 1) (s.withSeq (.scanlineInProgress n))) := by
  unfold endLine
  split
  · exact .inl ⟨‹_›, rfl⟩
  · exact .inr ⟨‹_›, rfl⟩

@[simp] theorem line_cfg (n : Nat) (s : State) : (line n s).cfg = s.cfg := by simp [line]
@[simp] theorem line_stream (n : Nat) (s : State) : (line n s).stream = s.stream := by simp [line]
@[simp] theorem line_resp (n : Nat) (s : State) : (line n s).resp = s.resp := by simp [line]
@[simp] theorem line_objbuf (n : Nat) (s : State) : (line n s).objbuf = lineObj s.scene n := by simp [line]
@[simp] theorem line_mainbuf (n : Nat) (s : State) : (line n s).mainbuf = lineMain s.scene n := by simp [line]
@[simp] theorem line_subbuf (n : Nat) (s : State) : (line n s).subbuf = lineSub s.scene n := by simp [line]
@[simp] theorem line_fb (n : Nat) (s : State) : (line n s).fb = writeRow s.cfg s.fb n (lineRow s.scene n) := by
  simp [line]

/-- `SEQ` after `Line(n)` (R321, R328). -/
theorem line_seq (n : Nat) (s : State) :
    (line n s).seq = if n + 1 = s.cfg.hLines then .frameComplete else .scanlineInProgress n :=
  endLine_seq n (drawLine n s)

/-- `NEXT` after a scanline that is not the last. -/
theorem line_next (n : Nat) (s : State) (h : n + 1 ≠ s.cfg.hLines) : (line n s).next = n + 1 := by
  simp [State.next, line_seq, h, Seq.next]

/-- `NEXT` after the last scanline. -/
theorem line_next_last (n : Nat) (s : State) (h : n + 1 = s.cfg.hLines) : (line n s).next = 0 := by
  simp [State.next, line_seq, h, Seq.next]

/-- A scanline adds nothing to `PENDING`. -/
theorem mem_line_pending (n : Nat) (s : State) (e : PendingWrite) (he : e ∈ (line n s).pending) : e ∈ s.pending := by
  rcases endLine_cases n (drawLine n s) with ⟨_, h⟩ | ⟨_, h⟩
  · rw [line, h] at he
    exact he
  · rw [line, h] at he
    simp only [commit_pending, stillQueued, List.mem_filter] at he
    exact he.1

/-- What neither drawing, nor `SEQ`, nor `PENDING`, nor any act outside `P` changes, a scanline leaves as it is unless
an act of `P` is due at its boundary (47_render_commands.md R323). -/
theorem line_keeps {α : Type} (P : WriteAct → Prop) (f : State → α) (h : ∀ a s, ¬ P a → f (applyAct a s) = f s)
    (hd : ∀ n s, f (drawLine n s) = f s) (hs : ∀ (s : State) q, f (s.withSeq q) = f s)
    (hp : ∀ (s : State) q, f (s.withPending q) = f s) (n : Nat) (s : State)
    (hn : ∀ e ∈ s.pending, e.eff.toNat = n + 1 → n + 1 ≠ s.cfg.hLines → ¬ P e.act) : f (line n s) = f s := by
  rcases endLine_cases n (drawLine n s) with ⟨_, h1⟩ | ⟨h0, h1⟩
  · rw [line, h1, hs, hd]
  · rw [line, h1, commit, applyActs_keeps P f h, hp, hs, hd]
    intro a ha
    obtain ⟨e, he, h2, rfl⟩ := (mem_dueActs _ _ _).1 ha
    exact hn e he h2 h0

/-! ## Several scanlines -/

@[simp] theorem linesFrom_cfg (n k : Nat) (s : State) : (linesFrom n k s).cfg = s.cfg := by
  induction k generalizing n s with
  | zero => rfl
  | succ k ih => simp [linesFrom, ih]
@[simp] theorem linesFrom_stream (n k : Nat) (s : State) : (linesFrom n k s).stream = s.stream := by
  induction k generalizing n s with
  | zero => rfl
  | succ k ih => simp [linesFrom, ih]
@[simp] theorem linesFrom_resp (n k : Nat) (s : State) : (linesFrom n k s).resp = s.resp := by
  induction k generalizing n s with
  | zero => rfl
  | succ k ih => simp [linesFrom, ih]

/-- Scanlines one after another. -/
theorem linesFrom_add (n j k : Nat) (s : State) : linesFrom n (j + k) s = linesFrom (n + j) k (linesFrom n j s) := by
  induction j generalizing n s with
  | zero => simp [linesFrom]
  | succ j ih =>
    rw [Nat.succ_add, linesFrom, linesFrom, ih, Nat.succ_add_eq_add_succ]

/-- The last of several scanlines. -/
theorem linesFrom_succ (n k : Nat) (s : State) : linesFrom n (k + 1) s = line (n + k) (linesFrom n k s) :=
  linesFrom_add n k 1 s

/-- The same of several scanlines, up to the last: the acts that matter are those tagged 1 to `H_LINES` − 1. -/
theorem linesFrom_keeps {α : Type} (P : WriteAct → Prop) (f : State → α)
    (h : ∀ a s, ¬ P a → f (applyAct a s) = f s) (hd : ∀ n s, f (drawLine n s) = f s)
    (hs : ∀ (s : State) q, f (s.withSeq q) = f s) (hp : ∀ (s : State) q, f (s.withPending q) = f s) (n k : Nat)
    (s : State) (hk : n + k ≤ s.cfg.hLines)
    (hn : ∀ e ∈ s.pending, 1 ≤ e.eff.toNat → e.eff.toNat < s.cfg.hLines → ¬ P e.act) :
    f (linesFrom n k s) = f s := by
  induction k generalizing n s with
  | zero => rfl
  | succ k ih =>
    rw [linesFrom, ih]
    · refine line_keeps P f h hd hs hp n s (fun e he h1 h2 => hn e he ?_ ?_) <;> omega
    · rw [line_cfg]
      omega
    · intro e he
      rw [line_cfg]
      exact hn e (mem_line_pending _ _ _ he)

end Sys2Proof.Machine
end

