-- ==== Sys2Proof/Laws/Commands.lean ====
section
/-! SUPPORT. What each command's meaning comes to, said once: which check fails, or which shared operation it is. -/

namespace Sys2Proof.Machine

/-! ## Write commands -/

/-- Every `WR_REG` form is `AcceptWrite` of its own register (46_register_write_commands.md R260). -/
theorem exec_regInstr (r : RegName) (e : Tag) (v : BitVec 16) (s : State) :
    exec (regInstr r e v) s = .next (acceptWrite e (.reg r v) s) := by cases r <;> rfl

/-- `WR_VRAM` beyond word 32767 is `E_RANGE` (40_memory_write_commands.md R142). -/
theorem exec_wrVram_range (e : Tag) (o : BitVec 16) (ds : List VWord) (s : State)
    (h : 32768 < o.toNat + ds.length) : exec (.wrVram e o ds) s = .next (reject s .eRange) :=
  if_pos (c := vramSize < o.toNat + ds.length) h

/-- `WR_VRAM` inside VRAM is `AcceptWrite` (R142). -/
theorem exec_wrVram_fits (e : Tag) (o : BitVec 16) (ds : List VWord) (s : State)
    (h : o.toNat + ds.length ≤ 32768) : exec (.wrVram e o ds) s = .next (acceptWrite e (.vram o.toNat ds) s) :=
  if_neg (c := vramSize < o.toNat + ds.length) (Nat.not_lt.2 h)

/-- `WR_CGRAM` beyond entry 255 is `E_RANGE` (R143). -/
theorem exec_wrCgram_range (e : Tag) (i v : BitVec 16) (s : State) (h : 255 < i.toNat) :
    exec (.wrCgram e i v) s = .next (reject s .eRange) := if_pos (c := cgramSize ≤ i.toNat) h

/-- `WR_CGRAM` inside CGRAM is `AcceptWrite` (R143). -/
theorem exec_wrCgram_fits (e : Tag) (i v : BitVec 16) (s : State) (h : i.toNat ≤ 255) :
    exec (.wrCgram e i v) s = .next (acceptWrite e (.cgram i.toNat (v.extractLsb' 0 15)) s) :=
  if_neg (c := cgramSize ≤ i.toNat) (Nat.not_le.2 (Nat.lt_succ_of_le h))

/-- `WR_OAM` beyond entry 127 is `E_RANGE` (R144). -/
theorem exec_wrOam_range (e : Tag) (i : BitVec 8) (f : OamFields) (s : State) (h : 127 < i.toNat) :
    exec (.wrOam e i f) s = .next (reject s .eRange) := if_pos (c := oamSize ≤ i.toNat) h

/-- `WR_OAM` inside OAM is `AcceptWrite` (R144). -/
theorem exec_wrOam_fits (e : Tag) (i : BitVec 8) (f : OamFields) (s : State) (h : i.toNat ≤ 127) :
    exec (.wrOam e i f) s = .next (acceptWrite e (.oam i.toNat (oamLowOf f) (oamHighOf f)) s) :=
  if_neg (c := oamSize ≤ i.toNat) (Nat.not_le.2 (Nat.lt_succ_of_le h))

/-- A full queue is full in the meaning of `acceptWrite`. -/
theorem queueFull_of_isFull (s : State) (h : queueIsFull s) : queueFull s = true := by
  unfold queueIsFull at h
  simp [queueFull, h]

/-- A queue with room is not full in the meaning of `acceptWrite`. -/
theorem queueFull_of_hasRoom (s : State) (h : queueHasRoom s) : queueFull s = false := by
  unfold queueFull
  split
  · rfl
  · exact decide_eq_false (Nat.not_le.2 (h _ ‹_›))

/-! ## Render commands -/

/-- `RENDER_LINE` out of order is `E_SEQ` (47_render_commands.md R321). -/
theorem exec_renderLine_bad (n : BitVec 16) (s : State) (h : n.toNat ≠ s.next) :
    exec (.renderLine n) s = .next (reject s .eSeq) := if_pos h

/-- `RENDER_LINE NEXT` is `Line(n)`, answering the row that the scene gives (R321, R330). -/
theorem exec_renderLine_next (n : BitVec 16) (s : State) (h : n.toNat = s.next) :
    exec (.renderLine n) s = .next (respond (line n.toNat s) (.okRow (lineRow s.scene n.toNat))) := by
  have hr : fbRow (line n.toNat s).cfg (line n.toNat s).fb n.toNat = lineRow s.scene n.toNat := by simp
  rw [← hr]
  exact if_neg (not_not_intro h)

/-- `RENDER_FRAME` in mid-frame is `E_SEQ` (R326). -/
theorem exec_renderFrame_mid (s : State) (h : midFrame s) : exec .renderFrame s = .next (reject s .eSeq) := by
  obtain ⟨n, hn⟩ := h
  simp only [exec, execRenderFrame, hn]

/-- `RENDER_FRAME` otherwise is `Line(0)` to `Line(H_LINES - 1)` (R326). -/
theorem exec_renderFrame_whole (s : State) (h : ¬ midFrame s) :
    exec .renderFrame s =
      .next (respond (linesFrom 0 s.cfg.hLines s) (frameResponse (linesFrom 0 s.cfg.hLines s))) := by
  unfold midFrame at h
  cases hs : s.seq with
  | idle => simp only [exec, execRenderFrame, hs]
  | scanlineInProgress n => exact absurd ⟨n, hs⟩ h
  | frameComplete => simp only [exec, execRenderFrame, hs]

end Sys2Proof.Machine
end

