-- ==== Sys2Proof/Laws/Encoding.lean ====
section
/-! SUPPORT. The small lemmas of the encoding: every field of a header is where the decoder reads it, the payload of
`WR_VRAM` unpacks to its data, and the bytes of a word make up the word. -/

namespace Sys2Proof

/-! ## Headers of formats V, C and R -/

theorem header16_eq (op : BitVec 8) (e : Tag) (h l : BitVec 16) :
    header16 op e h l = (op ++ e ++ 0#15 ++ h ++ l : BitVec (8 + 9 + 15 + 16 + 16)) := rfl

@[simp] theorem opField_header16 (op : BitVec 8) (e : Tag) (h l : BitVec 16) : opField (header16 op e h l) = op := by
  show BitVec.extractLsb' 56 8 (op ++ e ++ 0#15 ++ h ++ l : BitVec (8 + 9 + 15 + 16 + 16)) = op
  simp (disch := decide) only [BitVec.extractLsb'_append_eq_of_le]
  ext i hi
  simp

@[simp] theorem effField_header16 (op : BitVec 8) (e : Tag) (h l : BitVec 16) : effField (header16 op e h l) = e := by
  show BitVec.extractLsb' 47 9 (op ++ e ++ 0#15 ++ h ++ l : BitVec (8 + 9 + 15 + 16 + 16)) = e
  simp (disch := decide) only [BitVec.extractLsb'_append_eq_of_le]
  exact BitVec.extractLsb'_append_eq_right

@[simp] theorem midZero_header16 (op : BitVec 8) (e : Tag) (h l : BitVec 16) : midZero (header16 op e h l) = true := by
  have : BitVec.extractLsb' 32 15 (op ++ e ++ 0#15 ++ h ++ l : BitVec (8 + 9 + 15 + 16 + 16)) = 0#15 := by
    simp (disch := decide) only [BitVec.extractLsb'_append_eq_of_le]
    exact BitVec.extractLsb'_append_eq_right
  simpa [midZero, header16_eq] using this

@[simp] theorem hiField_header16 (op : BitVec 8) (e : Tag) (h l : BitVec 16) : hiField (header16 op e h l) = h := by
  show BitVec.extractLsb' 16 16 (op ++ e ++ 0#15 ++ h ++ l : BitVec (8 + 9 + 15 + 16 + 16)) = h
  simp (disch := decide) only [BitVec.extractLsb'_append_eq_of_le]
  exact BitVec.extractLsb'_append_eq_right

@[simp] theorem loField_header16 (op : BitVec 8) (e : Tag) (h l : BitVec 16) : loField (header16 op e h l) = l :=
  BitVec.extractLsb'_append_eq_right (a := (op ++ e ++ 0#15 ++ h : BitVec (8 + 9 + 15 + 16)))

/-- A word whose must-be-zero bits are zero is the header of its own fields (R111). -/
theorem header16_of_word (w : Word) (h : w.extractLsb' 32 15 = 0#15) :
    header16 (opField w) (effField w) (hiField w) (loField w) = w := by
  have : (w.extractLsb' 56 8 ++ w.extractLsb' 47 9 ++ w.extractLsb' 32 15 ++ w.extractLsb' 16 16
      ++ w.extractLsb' 0 16 : BitVec (8 + 9 + 15 + 16 + 16)) = w := by
    ext i hi
    simp only [BitVec.getElem_append, BitVec.getElem_extractLsb']
    split_ifs <;> rw [← BitVec.getLsbD_eq_getElem] <;> congr 1 <;> omega
  rw [h] at this
  exact this

/-! ## The header of format O -/

/-- The header of `WR_OAM` with the width of every part in its type. -/
def oamBits (eff : Tag) (idx : BitVec 8) (f : OamFields) :
    BitVec (8 + 9 + 8 + 5 + (1 + 1 + 1 + 2 + 3 + 1) + (8 + 8 + 9)) :=
  (0x03#8 ++ eff ++ idx ++ 0#5 : BitVec (8 + 9 + 8 + 5))
    ++ (BitVec.ofBool f.size ++ BitVec.ofBool f.vflip ++ BitVec.ofBool f.hflip ++ f.prio ++ f.pal
        ++ BitVec.ofBool f.name : BitVec (1 + 1 + 1 + 2 + 3 + 1))
    ++ (f.tile ++ f.y ++ f.x : BitVec (8 + 8 + 9))

theorem encodeOam_eq (eff : Tag) (idx : BitVec 8) (f : OamFields) : encodeOam eff idx f = oamBits eff idx f := rfl

section
variable (eff : Tag) (idx : BitVec 8) (f : OamFields)

@[simp] theorem encodeOam_op : (encodeOam eff idx f).extractLsb' 56 8 = 0x03#8 := by
  show (oamBits eff idx f).extractLsb' 56 8 = 0x03#8
  simp (disch := decide) only [oamBits, BitVec.extractLsb'_append_eq_of_le]
  ext i hi
  simp

@[simp] theorem encodeOam_eff : (encodeOam eff idx f).extractLsb' 47 9 = eff := by
  show (oamBits eff idx f).extractLsb' 47 9 = eff
  simp (disch := decide) only [oamBits, BitVec.extractLsb'_append_eq_of_le, BitVec.extractLsb'_append_eq_of_add_le]
  ext i hi
  simp

@[simp] theorem encodeOam_idx : (encodeOam eff idx f).extractLsb' 39 8 = idx := by
  show (oamBits eff idx f).extractLsb' 39 8 = idx
  simp (disch := decide) only [oamBits, BitVec.extractLsb'_append_eq_of_le, BitVec.extractLsb'_append_eq_of_add_le]
  ext i hi
  simp

@[simp] theorem encodeOam_zero : (encodeOam eff idx f).extractLsb' 34 5 = 0#5 := by
  show (oamBits eff idx f).extractLsb' 34 5 = 0#5
  simp (disch := decide) only [oamBits, BitVec.extractLsb'_append_eq_of_le, BitVec.extractLsb'_append_eq_of_add_le]
  ext i hi
  simp

@[simp] theorem encodeOam_prio : (encodeOam eff idx f).extractLsb' 29 2 = f.prio := by
  show (oamBits eff idx f).extractLsb' 29 2 = f.prio
  simp (disch := decide) only [oamBits, BitVec.extractLsb'_append_eq_of_le, BitVec.extractLsb'_append_eq_of_add_le]
  ext i hi
  simp

@[simp] theorem encodeOam_pal : (encodeOam eff idx f).extractLsb' 26 3 = f.pal := by
  show (oamBits eff idx f).extractLsb' 26 3 = f.pal
  simp (disch := decide) only [oamBits, BitVec.extractLsb'_append_eq_of_le, BitVec.extractLsb'_append_eq_of_add_le]
  ext i hi
  simp

@[simp] theorem encodeOam_tile : (encodeOam eff idx f).extractLsb' 17 8 = f.tile := by
  show (oamBits eff idx f).extractLsb' 17 8 = f.tile
  simp (disch := decide) only [oamBits, BitVec.extractLsb'_append_eq_of_le, BitVec.extractLsb'_append_eq_of_add_le]
  ext i hi
  simp

@[simp] theorem encodeOam_y : (encodeOam eff idx f).extractLsb' 9 8 = f.y := by
  show (oamBits eff idx f).extractLsb' 9 8 = f.y
  simp (disch := decide) only [oamBits, BitVec.extractLsb'_append_eq_of_le, BitVec.extractLsb'_append_eq_of_add_le]
  ext i hi
  simp

@[simp] theorem encodeOam_x : (encodeOam eff idx f).extractLsb' 0 9 = f.x := by
  show (oamBits eff idx f).extractLsb' 0 9 = f.x
  simp (disch := decide) only [oamBits, BitVec.extractLsb'_append_eq_of_add_le]
  ext i hi
  simp

@[simp] theorem encodeOam_size : (encodeOam eff idx f)[33] = f.size := by
  show (oamBits eff idx f)[33] = f.size
  simp only [oamBits, BitVec.getElem_append]
  simp

@[simp] theorem encodeOam_vflip : (encodeOam eff idx f)[32] = f.vflip := by
  show (oamBits eff idx f)[32] = f.vflip
  simp only [oamBits, BitVec.getElem_append]
  simp

@[simp] theorem encodeOam_hflip : (encodeOam eff idx f)[31] = f.hflip := by
  show (oamBits eff idx f)[31] = f.hflip
  simp only [oamBits, BitVec.getElem_append]
  simp

@[simp] theorem encodeOam_name : (encodeOam eff idx f)[25] = f.name := by
  show (oamBits eff idx f)[25] = f.name
  simp only [oamBits, BitVec.getElem_append]
  simp

end

/-! ## Headers of formats N and L -/

theorem loField_line (op : BitVec 8) (l : BitVec 16) : loField (op ++ 0#40 ++ l : BitVec (8 + 40 + 16)) = l :=
  BitVec.extractLsb'_append_eq_right (a := (op ++ 0#40 : BitVec (8 + 40)))

theorem opField_line (op : BitVec 8) (l : BitVec 16) : opField (op ++ 0#40 ++ l : BitVec (8 + 40 + 16)) = op := by
  show BitVec.extractLsb' 56 8 (op ++ 0#40 ++ l : BitVec (8 + 40 + 16)) = op
  simp (disch := decide) only [BitVec.extractLsb'_append_eq_of_le]
  ext i hi
  simp

theorem zero_line (op : BitVec 8) (l : BitVec 16) :
    BitVec.extractLsb' 16 40 (op ++ 0#40 ++ l : BitVec (8 + 40 + 16)) = 0#40 := by
  simp (disch := decide) only [BitVec.extractLsb'_append_eq_of_le]
  exact BitVec.extractLsb'_append_eq_right

/-! ## Payload -/

/-- The four lanes of a packed word are its data words, the first in the lowest lane (30_encoding.md R116). -/
@[simp] theorem lanes_packWord (a b c d : VWord) : lanes (packWord a b c d) = [a, b, c, d] := by
  have h0 : BitVec.extractLsb' 0 16 (d ++ c ++ b ++ a : BitVec (16 + 16 + 16 + 16)) = a :=
    BitVec.extractLsb'_append_eq_right
  have h1 : BitVec.extractLsb' 16 16 (d ++ c ++ b ++ a : BitVec (16 + 16 + 16 + 16)) = b := by
    simp (disch := decide) only [BitVec.extractLsb'_append_eq_of_le]
    exact BitVec.extractLsb'_append_eq_right
  have h2 : BitVec.extractLsb' 32 16 (d ++ c ++ b ++ a : BitVec (16 + 16 + 16 + 16)) = c := by
    simp (disch := decide) only [BitVec.extractLsb'_append_eq_of_le]
    exact BitVec.extractLsb'_append_eq_right
  have h3 : BitVec.extractLsb' 48 16 (d ++ c ++ b ++ a : BitVec (16 + 16 + 16 + 16)) = d := by
    simp (disch := decide) only [BitVec.extractLsb'_append_eq_of_le]
    ext i hi
    simp
  show [_, _, _, _] = _
  exact congrArg₂ _ h0 (congrArg₂ _ h1 (congrArg₂ _ h2 (congrArg₂ _ h3 rfl)))

/-- The payload has `(len + 3) div 4` words (R116). -/
theorem packPayload_length (ds : List VWord) : (packPayload ds).length = (ds.length + 3) / 4 := by
  induction ds using packPayload.induct with
  | case1 => rfl
  | case2 => simp [packPayload]
  | case3 => simp [packPayload]
  | case4 => simp [packPayload]
  | case5 a b c d rest ih => simp [packPayload, ih]; omega

/-- The lanes of a packed payload begin with its data words (R116). -/
theorem take_lanes_packPayload (ds : List VWord) : ((packPayload ds).flatMap lanes).take ds.length = ds := by
  induction ds using packPayload.induct with
  | case1 => rfl
  | case2 => simp [packPayload]
  | case3 => simp [packPayload]
  | case4 => simp [packPayload]
  | case5 a b c d rest ih => simp [packPayload, ih]

/-- Data word `k` of a payload is lane `k mod 4` of its word `k div 4` (R116). -/
theorem getElem?_lanes (ps : List Word) (k : Nat) :
    (ps.flatMap lanes)[k]? = (ps[k / 4]?).map (fun q => q.extractLsb' (16 * (k % 4)) 16) := by
  induction ps generalizing k with
  | nil => simp
  | cons p ps ih =>
    rw [List.flatMap_cons]
    by_cases hk : k < 4
    · rw [List.getElem?_append_left (by simpa [lanes] using hk)]
      have : k = 0 ∨ k = 1 ∨ k = 2 ∨ k = 3 := by omega
      rcases this with rfl | rfl | rfl | rfl <;> simp [lanes]
    · rw [List.getElem?_append_right (by simp [lanes]; omega), show (lanes p).length = 4 from rfl, ih]
      obtain ⟨j, rfl⟩ : ∃ j, k = j + 4 := ⟨k - 4, by omega⟩
      simp [Nat.add_div_right]

/-- A payload of `n` words has `4·n` data words (R116). -/
theorem length_lanes (ps : List Word) : (ps.flatMap lanes).length = 4 * ps.length := by
  induction ps with
  | nil => rfl
  | cons p ps ih =>
    rw [List.flatMap_cons, List.length_append, ih, List.length_cons, show (lanes p).length = 4 from rfl]
    omega

/-! ## Bytes -/

/-- The bytes of a word, least significant first, make up the word (R113). -/
theorem word_of_its_bytes (w : Word) :
    (w.extractLsb' 56 8 ++ w.extractLsb' 48 8 ++ w.extractLsb' 40 8 ++ w.extractLsb' 32 8 ++ w.extractLsb' 24 8
      ++ w.extractLsb' 16 8 ++ w.extractLsb' 8 8 ++ w.extractLsb' 0 8 : BitVec (8 + 8 + 8 + 8 + 8 + 8 + 8 + 8)) = w := by
  ext i hi
  simp only [BitVec.getElem_append, BitVec.getElem_extractLsb']
  split_ifs <;> rw [← BitVec.getLsbD_eq_getElem] <;> congr 1 <;> omega

end Sys2Proof
end

