-- ==== Sys2Proof/Laws/Operands.lean ====
section
/-! SUPPORT. What the operand readers and the layer renderers give, as numbers: slices, single bits, packed colours,
plane sums, positions in a tilemap, and the candidates of Mode 7. -/

namespace Sys2Proof.Machine

/-! ## Slices and colours -/

/-- A slice is a quotient and a remainder (00_scope.md R10). -/
theorem slice_eq {n : Nat} (v : BitVec n) (lo len : Nat) : slice v lo len = v.toNat / 2 ^ lo % 2 ^ len := by
  simp [slice, Nat.shiftRight_eq_div_pow]

theorem slice_lt {n : Nat} (v : BitVec n) (lo len : Nat) : slice v lo len < 2 ^ len := (v.extractLsb' lo len).isLt

theorem bitNat_lt {n : Nat} (v : BitVec n) (i : Nat) : bitNat v i < 2 := by
  unfold bitNat
  split <;> decide

/-- A bit is a quotient and a remainder. -/
theorem bitNat_eq {n : Nat} (v : BitVec n) (i : Nat) : bitNat v i = v.toNat / 2 ^ i % 2 := by
  unfold bitNat
  rw [BitVec.getLsbD, Nat.testBit_eq_decide_div_mod_eq]
  by_cases h : v.toNat / 2 ^ i % 2 = 1
  · simp [h]
  · simp only [h, decide_false, Bool.false_eq_true, if_false]
    omega

/-- Packing keeps the low five bits of each channel (00_scope.md R15). -/
theorem unpack15_pack15 (r g b : Nat) : unpack15 (pack15 r g b) = { r := r % 32, g := g % 32, b := b % 32 } := by
  have hb : (pack15 r g b).toNat = b % 32 * 1024 + g % 32 * 32 + r % 32 := by
    have h1 := Nat.mod_lt g (show 32 > 0 by decide)
    have h2 := Nat.mod_lt r (show 32 > 0 by decide)
    rw [pack15, BitVec.toNat_append, BitVec.toNat_append,
      ← Nat.shiftLeft_add_eq_or_of_lt (by simpa using r.mod_lt (by decide)),
      ← Nat.shiftLeft_add_eq_or_of_lt (by simpa using g.mod_lt (by decide))]
    simp [Nat.shiftLeft_eq]
    omega
  simp only [unpack15, slice_eq, hb, Rgb.mk.injEq]
  omega

/-! ## Bitmaps -/

/-- A plane pair contributes two bits (30_encoding.md R125). -/
theorem planePair_le (w : VWord) (c k : Nat) : planePair w c k ≤ 3 * 2 ^ (2 * k) := by
  have h1 : bitNat w (7 - c) * 2 ^ (2 * k) ≤ 1 * 2 ^ (2 * k) :=
    Nat.mul_le_mul_right _ (Nat.le_of_lt_succ (bitNat_lt w (7 - c)))
  have h2 : bitNat w (15 - c) * 2 ^ (2 * k + 1) ≤ 1 * 2 ^ (2 * k + 1) :=
    Nat.mul_le_mul_right _ (Nat.le_of_lt_succ (bitNat_lt w (15 - c)))
  unfold planePair
  omega

/-- The first `k` plane pairs make a number of `2k` bits (30_encoding.md R125). -/
theorem planeSum_lt (m : Memory) (t c r k : Nat) : planeSum m t c r k < 2 ^ (2 * k) := by
  induction k with
  | zero => simp [planeSum]
  | succ k ih =>
    have := planePair_le (readVram m ((t + 8 * k + r) % vramSize)) c k
    rw [planeSum, show 2 * (k + 1) = 2 * k + 2 by omega, Nat.pow_add]
    omega

/-- A pixel has as many bits as its tile's depth (30_encoding.md R125). -/
theorem tilePixel_lt (m : Memory) (t bpp c r : Nat) (h : bpp % 2 = 0) : tilePixel m t bpp c r < 2 ^ bpp := by
  have := planeSum_lt m t c r (bpp / 2)
  rwa [show 2 * (bpp / 2) = bpp by omega] at this

/-! ## Positions -/

/-- Two positions that differ by a multiple of the tilemap's size are one position in it
(41_background_renderer.md R158). -/
theorem mapPos_congr (tiles size : Nat) (u v : Int)
    (h : u % ((tiles * size : Nat) : Int) = v % ((tiles * size : Nat) : Int)) :
    mapPos tiles size u = mapPos tiles size v := by
  unfold mapPos
  rw [h]

/-- A tilemap is 256, 512 or 1024 pixels wide (41_background_renderer.md R158). -/
theorem mapW_tileSize (g : Regs) (l : Bg) : mapW g l * tileSize g l ∈ [256, 512, 1024] := by
  unfold mapW tileSize
  split <;> split <;> decide

/-- A tilemap is 256, 512 or 1024 pixels high (41_background_renderer.md R158). -/
theorem mapH_tileSize (g : Regs) (l : Bg) : mapH g l * tileSize g l ∈ [256, 512, 1024] := by
  unfold mapH tileSize
  split <;> split <;> decide

/-- The tilemap word depends on the position only modulo the tilemap's size. -/
theorem mapWord_congr (sc : Scene) (l : Bg) (u u' v v' : Int)
    (hu : u % ((mapW sc.regs l * tileSize sc.regs l : Nat) : Int) =
      u' % ((mapW sc.regs l * tileSize sc.regs l : Nat) : Int))
    (hv : v % ((mapH sc.regs l * tileSize sc.regs l : Nat) : Int) =
      v' % ((mapH sc.regs l * tileSize sc.regs l : Nat) : Int)) :
    mapWord sc l u v = mapWord sc l u' v' := by
  simp only [mapWord, mapPos_congr _ _ _ _ hu, mapPos_congr _ _ _ _ hv]

/-- The sample depends on the position only modulo the tilemap's size. -/
theorem tileSample_congr (sc : Scene) (l : Bg) (bpp : Nat) (u u' v v' : Int)
    (hu : u % ((mapW sc.regs l * tileSize sc.regs l : Nat) : Int) =
      u' % ((mapW sc.regs l * tileSize sc.regs l : Nat) : Int))
    (hv : v % ((mapH sc.regs l * tileSize sc.regs l : Nat) : Int) =
      v' % ((mapH sc.regs l * tileSize sc.regs l : Nat) : Int)) :
    tileSample sc l bpp u v = tileSample sc l bpp u' v' := by
  simp only [tileSample, mapWord_congr sc l _ _ _ _ hu hv, mapPos_congr _ _ _ _ hu, mapPos_congr _ _ _ _ hv]

/-! ## Mode 7 -/

@[simp] theorem m7Pixel_bg1 (sc : Scene) (x : Int) (y : Nat) :
    m7Pixel sc .bg1 x y = (m7Sample sc x y).bind (m7Main sc.regs) := rfl
@[simp] theorem m7Pixel_bg3 (sc : Scene) (x : Int) (y : Nat) : m7Pixel sc .bg3 x y = none := rfl
@[simp] theorem m7Pixel_bg4 (sc : Scene) (x : Int) (y : Nat) : m7Pixel sc .bg4 x y = none := rfl

/-- Without `EXTBG` there is no sub-layer, whatever MODEDEF says (43_mode7.md R207). -/
theorem m7Pixel_bg2_off (sc : Scene) (x : Int) (y : Nat) (h : m7Extbg sc.regs = false) :
    m7Pixel sc .bg2 x y = none := by
  simp [m7Pixel, h]

/-- With `EXTBG` the sub-layer reads the pixel the main layer fetched (43_mode7.md R207). -/
theorem m7Pixel_bg2_on (sc : Scene) (x : Int) (y : Nat) (h : m7Extbg sc.regs = true) :
    m7Pixel sc .bg2 x y = (m7Sample sc x y).bind m7Sub := by
  simp [m7Pixel, h]

/-- All that the main layer can offer for a fetched pixel (43_mode7.md R206). -/
theorem m7Main_cases (g : Regs) (pix : BitVec 8) :
    (pix = 0 ∧ m7Main g pix = none) ∨
    (pix ≠ 0 ∧ cgDirect g = true ∧
      m7Main g pix = some { prio := false, cidx := 0, direct := true, dcol := directColour 0 pix.toNat }) ∨
    (pix ≠ 0 ∧ cgDirect g = false ∧
      m7Main g pix = some { prio := false, cidx := pix, direct := false, dcol := 0 }) := by
  by_cases h : pix = 0
  · exact .inl ⟨h, by simp [m7Main, h]⟩
  · cases hd : cgDirect g with
    | true => exact .inr (.inl ⟨h, rfl, by rw [m7Main, if_neg h, colour, if_pos ⟨hd, rfl, rfl⟩]⟩)
    | false =>
      refine .inr (.inr ⟨h, rfl, ?_⟩)
      rw [m7Main, if_neg h, colour, if_neg (by simp [hd])]
      simp [colourIndex]

end Sys2Proof.Machine
end

