-- ==== Sys2Proof/Laws/PerInstr.lean ====
section
/-! SUPPORT. Families of lemmas with one member for each command. `HeaderShape`: the words of a well-formed command
are a header with the command's opcode and exactly the payload words that header calls for (30_encoding.md R111,
R112, R116). -/

namespace Sys2Proof.Laws.HeaderShape

/-- The encoding of `i` is one header with its opcode, then as many payload words as the header calls for. -/
def Statement (i : Instr) : Prop :=
  i.wellFormed = true →
    ∃ (w : Word) (p : List Word), encode i = w :: p ∧ opField w = opcodeOf i ∧ payloadCount w = p.length

theorem nop : Statement .nop := fun _ => ⟨_, [], rfl, by decide, by decide⟩

theorem wrVram (e : Tag) (o : BitVec 16) (ds : List VWord) : Statement (.wrVram e o ds) := by
  intro h
  have hm : ds.length % 65536 = ds.length := Nat.mod_eq_of_lt (by simpa [Instr.wellFormed] using h)
  exact ⟨_, _, rfl, opField_header16 _ _ _ _, by simp [payloadCount, packPayload_length, hm]⟩

theorem wrCgram (e : Tag) (i v : BitVec 16) : Statement (.wrCgram e i v) :=
  fun _ => ⟨_, [], rfl, opField_header16 _ _ _ _, by simp [payloadCount]⟩

theorem wrOam (e : Tag) (i : BitVec 8) (f : OamFields) : Statement (.wrOam e i f) :=
  fun _ => ⟨_, [], rfl, encodeOam_op e i f, by simp [payloadCount, opField]⟩

/-- Every `WR_REG` form is one header of opcode 0x04 (46_register_write_commands.md R260). -/
theorem regHeader (r : RegName) (e : Tag) (v : BitVec 16) :
    ∃ (w : Word) (p : List Word), encodeReg r e v = w :: p ∧ opField w = 0x04#8 ∧ payloadCount w = p.length :=
  ⟨_, [], rfl, opField_header16 _ _ _ _, by simp [payloadCount]⟩

theorem wrBright (e : Tag) (v : BitVec 16) : Statement (.wrBright e v) := fun _ => regHeader .bright e v
theorem wrBgmode (e : Tag) (v : BitVec 16) : Statement (.wrBgmode e v) := fun _ => regHeader .bgmode e v
theorem wrMosaic (e : Tag) (v : BitVec 16) : Statement (.wrMosaic e v) := fun _ => regHeader .mosaic e v
theorem wrMosaicph (e : Tag) (v : BitVec 16) : Statement (.wrMosaicph e v) := fun _ => regHeader .mosaicph e v
theorem wrBg1sc (e : Tag) (v : BitVec 16) : Statement (.wrBg1sc e v) := fun _ => regHeader .bg1sc e v
theorem wrBg2sc (e : Tag) (v : BitVec 16) : Statement (.wrBg2sc e v) := fun _ => regHeader .bg2sc e v
theorem wrBg3sc (e : Tag) (v : BitVec 16) : Statement (.wrBg3sc e v) := fun _ => regHeader .bg3sc e v
theorem wrBg4sc (e : Tag) (v : BitVec 16) : Statement (.wrBg4sc e v) := fun _ => regHeader .bg4sc e v
theorem wrBg1nba (e : Tag) (v : BitVec 16) : Statement (.wrBg1nba e v) := fun _ => regHeader .bg1nba e v
theorem wrBg2nba (e : Tag) (v : BitVec 16) : Statement (.wrBg2nba e v) := fun _ => regHeader .bg2nba e v
theorem wrBg3nba (e : Tag) (v : BitVec 16) : Statement (.wrBg3nba e v) := fun _ => regHeader .bg3nba e v
theorem wrBg4nba (e : Tag) (v : BitVec 16) : Statement (.wrBg4nba e v) := fun _ => regHeader .bg4nba e v
theorem wrBg1hofs (e : Tag) (v : BitVec 16) : Statement (.wrBg1hofs e v) := fun _ => regHeader .bg1hofs e v
theorem wrBg2hofs (e : Tag) (v : BitVec 16) : Statement (.wrBg2hofs e v) := fun _ => regHeader .bg2hofs e v
theorem wrBg3hofs (e : Tag) (v : BitVec 16) : Statement (.wrBg3hofs e v) := fun _ => regHeader .bg3hofs e v
theorem wrBg4hofs (e : Tag) (v : BitVec 16) : Statement (.wrBg4hofs e v) := fun _ => regHeader .bg4hofs e v
theorem wrBg1vofs (e : Tag) (v : BitVec 16) : Statement (.wrBg1vofs e v) := fun _ => regHeader .bg1vofs e v
theorem wrBg2vofs (e : Tag) (v : BitVec 16) : Statement (.wrBg2vofs e v) := fun _ => regHeader .bg2vofs e v
theorem wrBg3vofs (e : Tag) (v : BitVec 16) : Statement (.wrBg3vofs e v) := fun _ => regHeader .bg3vofs e v
theorem wrBg4vofs (e : Tag) (v : BitVec 16) : Statement (.wrBg4vofs e v) := fun _ => regHeader .bg4vofs e v
theorem wrObsel (e : Tag) (v : BitVec 16) : Statement (.wrObsel e v) := fun _ => regHeader .obsel e v
theorem wrM7sel (e : Tag) (v : BitVec 16) : Statement (.wrM7sel e v) := fun _ => regHeader .m7sel e v
theorem wrM7a (e : Tag) (v : BitVec 16) : Statement (.wrM7a e v) := fun _ => regHeader .m7a e v
theorem wrM7b (e : Tag) (v : BitVec 16) : Statement (.wrM7b e v) := fun _ => regHeader .m7b e v
theorem wrM7c (e : Tag) (v : BitVec 16) : Statement (.wrM7c e v) := fun _ => regHeader .m7c e v
theorem wrM7d (e : Tag) (v : BitVec 16) : Statement (.wrM7d e v) := fun _ => regHeader .m7d e v
theorem wrM7x (e : Tag) (v : BitVec 16) : Statement (.wrM7x e v) := fun _ => regHeader .m7x e v
theorem wrM7y (e : Tag) (v : BitVec 16) : Statement (.wrM7y e v) := fun _ => regHeader .m7y e v
theorem wrWh0 (e : Tag) (v : BitVec 16) : Statement (.wrWh0 e v) := fun _ => regHeader .wh0 e v
theorem wrWh1 (e : Tag) (v : BitVec 16) : Statement (.wrWh1 e v) := fun _ => regHeader .wh1 e v
theorem wrWh2 (e : Tag) (v : BitVec 16) : Statement (.wrWh2 e v) := fun _ => regHeader .wh2 e v
theorem wrWh3 (e : Tag) (v : BitVec 16) : Statement (.wrWh3 e v) := fun _ => regHeader .wh3 e v
theorem wrWselBg1 (e : Tag) (v : BitVec 16) : Statement (.wrWselBg1 e v) := fun _ => regHeader .wselBg1 e v
theorem wrWselBg2 (e : Tag) (v : BitVec 16) : Statement (.wrWselBg2 e v) := fun _ => regHeader .wselBg2 e v
theorem wrWselBg3 (e : Tag) (v : BitVec 16) : Statement (.wrWselBg3 e v) := fun _ => regHeader .wselBg3 e v
theorem wrWselBg4 (e : Tag) (v : BitVec 16) : Statement (.wrWselBg4 e v) := fun _ => regHeader .wselBg4 e v
theorem wrWselObj (e : Tag) (v : BitVec 16) : Statement (.wrWselObj e v) := fun _ => regHeader .wselObj e v
theorem wrWselCol (e : Tag) (v : BitVec 16) : Statement (.wrWselCol e v) := fun _ => regHeader .wselCol e v
theorem wrTm (e : Tag) (v : BitVec 16) : Statement (.wrTm e v) := fun _ => regHeader .tm e v
theorem wrTs (e : Tag) (v : BitVec 16) : Statement (.wrTs e v) := fun _ => regHeader .ts e v
theorem wrTmw (e : Tag) (v : BitVec 16) : Statement (.wrTmw e v) := fun _ => regHeader .tmw e v
theorem wrTsw (e : Tag) (v : BitVec 16) : Statement (.wrTsw e v) := fun _ => regHeader .tsw e v
theorem wrCgwsel (e : Tag) (v : BitVec 16) : Statement (.wrCgwsel e v) := fun _ => regHeader .cgwsel e v
theorem wrCgadsub (e : Tag) (v : BitVec 16) : Statement (.wrCgadsub e v) := fun _ => regHeader .cgadsub e v
theorem wrFixedcolor (e : Tag) (v : BitVec 16) : Statement (.wrFixedcolor e v) := fun _ => regHeader .fixedcolor e v
theorem wrInterlace (e : Tag) (v : BitVec 16) : Statement (.wrInterlace e v) := fun _ => regHeader .interlace e v

theorem renderLine (l : BitVec 16) : Statement (.renderLine l) :=
  fun _ => ⟨_, [], rfl, opField_line 0x10#8 l, by
    show payloadCount (0x10#8 ++ 0#40 ++ l : BitVec (8 + 40 + 16)) = 0
    unfold payloadCount
    rw [opField_line]
    rfl⟩

theorem renderFrame : Statement .renderFrame := fun _ => ⟨_, [], rfl, by decide, by decide⟩

theorem getFrame : Statement .getFrame := fun _ => ⟨_, [], rfl, by decide, by decide⟩

end Sys2Proof.Laws.HeaderShape
end

