-- ==== Sys2Proof/Laws/Sprites.lean ====
section
/-! SUPPORT. What drawing a sprite's tiles does to one cell of `OBJBUF`, said once: a cell that holds a pixel keeps it,
and an empty cell takes the first pixel offered to it (42_sprite_evaluator.md R188, R190, R191). -/

namespace Sys2Proof.Machine

/-- The value of a sprite pixel has four bits (42_sprite_evaluator.md R190). -/
theorem objPix_lt (w0 w1 : VWord) (b : Nat) : objPix w0 w1 b < 16 := by
  have h1 := bitNat_lt w0 b
  have h2 := bitNat_lt w0 (8 + b)
  have h3 := bitNat_lt w1 b
  have h4 := bitNat_lt w1 (8 + b)
  unfold objPix
  omega

/-- A sprite's position is `xlo`, less 256 where `xhi` is set (10_state.md R26). -/
theorem sprite_x (m : Memory) (i : Nat) :
    (sprite m i).x = ((readLow m i).xlo.toNat : Int) - (if (readHigh m i).xhi then 256 else 0) := by
  have key : ∀ (b : Bool) (v : BitVec 8),
      (BitVec.ofBool b ++ v).toInt = (v.toNat : Int) - (if b then 256 else 0) := by decide
  exact key _ _

/-- A tile is fetched iff it has a pixel inside `XRANGE` (R188). -/
theorem tileOnScreen_iff (c : Config) (z : Int) (h : 0 < c.width) :
    tileOnScreen c z = true ↔ ∃ p : Nat, p < 8 ∧ c.xMin ≤ z + (p : Int) ∧ z + (p : Int) ≤ c.xMax := by
  have hw : c.width = c.padL + c.wBase + c.padR := rfl
  have hl : c.xMin = -(c.padL : Int) := rfl
  have hr : c.xMax = (c.wBase : Int) - 1 + (c.padR : Int) := rfl
  simp only [tileOnScreen, Bool.and_eq_true, decide_eq_true_eq]
  constructor
  · intro ⟨h1, h2⟩
    exact ⟨(max 0 (-(c.padL : Int) - z)).toNat, by omega, by omega, by omega⟩
  · rintro ⟨p, h1, h2, h3⟩
    omega

/-- A pixel goes to the cell of its X, if that cell is empty (R191). -/
theorem putObj_get (c : Config) (buf : List (Option ObjPixel)) (x : Int) (p : ObjPixel) (col : Nat)
    (o : Option ObjPixel) (hc : col < c.width) (ho : buf[col]? = some o) :
    (putObj c buf x p)[col]? = some (o.or (if columnX c col = x then some p else none)) := by
  have hl : c.xMin = -(c.padL : Int) := rfl
  have hr : c.xMax = (c.wBase : Int) - 1 + (c.padR : Int) := rfl
  have hw : c.width = c.padL + c.wBase + c.padR := rfl
  have hX : columnX c col = (col : Int) - (c.padL : Int) := rfl
  unfold putObj
  by_cases hx : columnX c col = x
  · have h1 : ¬ (x < c.xMin ∨ c.xMax < x) := by omega
    have h2 : (x + (c.padL : Int)).toNat = col := by omega
    rw [if_neg h1, if_pos hx]
    simp only [h2, ho]
    cases o with
    | none =>
      have hl : col < buf.length := (List.getElem?_eq_some_iff.1 ho).1
      simp [hl]
    | some q => simpa using ho
  · rw [if_neg hx, Option.or_none]
    split
    · exact ho
    · rename_i h1
      have h2 : (x + (c.padL : Int)).toNat ≠ col := by omega
      dsimp only
      split
      · rw [List.getElem?_set_ne h2, ho]
      · exact ho

/-- What pixel `p` of a tile whose left edge is at `x` offers to the cell of position `at`. -/
def rowDot (low : OamLow) (w0 w1 : VWord) (x pos : Int) (p : Nat) : Option ObjPixel :=
  if pos = x + (p : Int) ∧ objPix w0 w1 (objBit low.hflip p) ≠ 0 then
    some (objPixel low (objPix w0 w1 (objBit low.hflip p)))
  else none

/-- Drawing pixels offers them to a cell one after another (R190, R191). -/
theorem drawPixels_get (c : Config) (low : OamLow) (w0 w1 : VWord) (x : Int) (ps : List Nat)
    (buf : List (Option ObjPixel)) (col : Nat) (o : Option ObjPixel) (hc : col < c.width) (ho : buf[col]? = some o) :
    (drawPixels c low w0 w1 x ps buf)[col]? =
      some (o.or (ps.findSome? (rowDot low w0 w1 x (columnX c col)))) := by
  induction ps generalizing buf o with
  | nil => simpa [drawPixels] using ho
  | cons p ps ih =>
    simp only [drawPixels]
    have key : (if objPix w0 w1 (objBit low.hflip p) = 0 then buf
        else putObj c buf (x + (p : Int)) (objPixel low (objPix w0 w1 (objBit low.hflip p))))[col]? =
        some (o.or (rowDot low w0 w1 x (columnX c col) p)) := by
      by_cases hz : objPix w0 w1 (objBit low.hflip p) = 0
      · rw [if_pos hz, ho]
        simp [rowDot, hz]
      · rw [if_neg hz, putObj_get c buf _ _ col o hc ho]
        simp [rowDot, hz]
    rw [ih _ _ key, Option.or_assoc, List.findSome?_cons]
    cases rowDot low w0 w1 x (columnX c col) p <;> rfl

/-- Only the pixel over a position can be offered to it. -/
theorem findSome?_rowDot (low : OamLow) (w0 w1 : VWord) (x pos : Int) :
    (List.range 8).findSome? (rowDot low w0 w1 x pos) =
      if 0 ≤ pos - x ∧ pos - x < 8 then rowDot low w0 w1 x pos (pos - x).toNat else none := by
  have off : ∀ p : Nat, pos ≠ x + (p : Int) → rowDot low w0 w1 x pos p = none := fun p h => by simp [rowDot, h]
  split
  · rename_i h
    obtain ⟨k, hk⟩ : ∃ k : Nat, pos - x = (k : Int) := ⟨(pos - x).toNat, by omega⟩
    have hk8 : k < 8 := by omega
    rw [hk, Int.toNat_natCast]
    have ne : ∀ p : Nat, p ≠ k → rowDot low w0 w1 x pos p = none := fun p hp => off p (by omega)
    cases hv : rowDot low w0 w1 x pos k with
    | none =>
      rw [List.findSome?_eq_none_iff]
      intro p _
      by_cases hp : p = k
      · rw [hp, hv]
      · exact ne p hp
    | some v =>
      rw [List.findSome?_eq_some_iff]
      refine ⟨List.range k, k, (List.range' (k + 1) (7 - k)), ?_, hv, ?_⟩
      · interval_cases k <;> rfl
      · intro p hp
        exact ne p (by have := List.mem_range.1 hp; omega)
  · rename_i h
    rw [List.findSome?_eq_none_iff]
    intro p hp
    exact off p (by have := List.mem_range.1 hp; omega)

/-- Drawing a tile offers a cell the tile's dot at its X (R187 to R191). -/
theorem drawTile_get (sc : Scene) (y i k : Nat) (buf : List (Option ObjPixel)) (col : Nat) (o : Option ObjPixel)
    (hc : col < sc.cfg.width) (ho : buf[col]? = some o) :
    (drawTile sc (sprite sc.mem i) ((sprite sc.mem i).dim sc).w
        (bitmapRow (sprite sc.mem i).low.vflip ((sprite sc.mem i).dim sc).h (spriteRow (sprite sc.mem i) y)) k buf)[col]? =
      some (o.or (tileDot sc y (columnX sc.cfg col) (i, k))) := by
  rw [drawTile, drawPixels_get _ _ _ _ _ _ _ _ _ hc ho, findSome?_rowDot]
  congr 2
  simp only [tileDot, rowDot]
  by_cases h : 0 ≤ columnX sc.cfg col - ((sprite sc.mem i).x + (k : Int)) ∧
      columnX sc.cfg col - ((sprite sc.mem i).x + (k : Int)) < 8
  · have he : columnX sc.cfg col = (sprite sc.mem i).x + (k : Int) +
        ((columnX sc.cfg col - ((sprite sc.mem i).x + (k : Int))).toNat : Int) := by omega
    rw [if_pos h]
    simp only [← he, h, true_and]
  · rw [if_neg h, if_neg (fun hh => h ⟨hh.1, hh.2.1⟩)]

/-- All that the tiles of one sprite can do: the on-screen ones are fetched until 34 are, and each fetched one is
offered to the cell (R188). -/
theorem scanTiles_get (sc : Scene) (y i : Nat) (cols : List Nat) (a : ObjScan) (col : Nat) (o : Option ObjPixel)
    (hc : col < sc.cfg.width) (ho : a.buf[col]? = some o) (hn : a.ntile ≤ 34) (ts : List Nat) (r : ObjScan × Bool)
    (hts : ts = cols.filter (fun (k : Nat) => tileOnScreen sc.cfg ((sprite sc.mem i).x + (k : Int))))
    (hr : r = scanTiles sc (sprite sc.mem i) ((sprite sc.mem i).dim sc).w
      (bitmapRow (sprite sc.mem i).low.vflip ((sprite sc.mem i).dim sc).h (spriteRow (sprite sc.mem i) y)) cols a) :
    r.1.buf[col]? = some (o.or ((ts.take (34 - a.ntile)).findSome?
      (fun k => tileDot sc y (columnX sc.cfg col) (i, k)))) ∧
    r.1.ntile = min 34 (a.ntile + ts.length) ∧ r.1.nspr = a.nspr ∧ (r.2 = true ↔ 34 < a.ntile + ts.length) := by
  subst hts hr
  induction cols generalizing a o with
  | nil => simp [scanTiles, ho]; omega
  | cons k cols ih =>
    rw [scanTiles]
    by_cases hk : tileOnScreen sc.cfg ((sprite sc.mem i).x + (k : Int)) = true
    · rw [if_pos hk, List.filter_cons_of_pos (by simpa using hk)]
      by_cases hl : a.ntile = tileLimit
      · have hl' : a.ntile = 34 := hl
        rw [if_pos hl]
        simp [hl', ho]
      · rw [if_neg hl]
        have hl' : a.ntile ≠ 34 := hl
        obtain ⟨h1, h2, h3, h4⟩ := ih { a with buf := drawTile sc _ _ _ k a.buf, ntile := a.ntile + 1 } _
          (drawTile_get sc y i k a.buf col o hc ho) (show a.ntile + 1 ≤ 34 by omega)
        refine ⟨?_, ?_, h3, ?_⟩
        · rw [h1]
          obtain ⟨m, hm⟩ : ∃ m, 34 - a.ntile = m + 1 := ⟨33 - a.ntile, by omega⟩
          rw [hm, show 34 - (a.ntile + 1) = m by omega, List.take_succ_cons, List.findSome?_cons, Option.or_assoc]
          cases tileDot sc y (columnX sc.cfg col) (i, k) <;> rfl
        · rw [h2]
          simp only [List.length_cons]
          omega
        · rw [h4]
          simp only [List.length_cons]
          omega
    · rw [if_neg hk, List.filter_cons_of_neg (by simpa using hk)]
      exact ih a o ho hn

end Sys2Proof.Machine
end

