-- ==== Sys2Proof/Tests/Slice0.lean ====
section
/-! SUPPORT. Tests of the model against values the spec gives (the vectors of 95_test_vectors.md and the examples in
the rules), and for every statement with hypotheses a witness that they can be met. -/

namespace Sys2Proof.Tests

open Sys2Proof.Machine

/-! ## Small machines -/

/-- A picture of 2 × 3 pixels, for states small enough to evaluate. -/
def tiny : Config := { Config.default with wBase := 2, hLines := 3, pitch := 8 }

/-- After reset. -/
def s0 : State := State.resetWith tiny Memory.blank []

/-- Scanline 0 rendered: `NEXT` is 1. -/
def s1 : State := { s0 with seq := .scanlineInProgress 0 }

/-- Scanline 1 rendered: the last scanline is next. -/
def s2 : State := { s0 with seq := .scanlineInProgress 1 }

/-- A queued write of brightness for scanline 2. -/
def queued : PendingWrite := { eff := 2, act := .reg .bright 7 }

/-- A queue of one entry, full. -/
def sFull : State := { s0 with cfg := { tiny with pendqDepth := some 1 }, pending := [queued] }

/-- `BRIGHT` = 15 and `CGRAM[0]` = 0x7FFF. -/
def sWhite : State := { s0 with mem := { Memory.blank with cgram := [(0, 0x7FFF)] }, regs := { Regs.zero with bright := 15 } }

/-- The state a command leads to. -/
def after (i : Instr) (s : State) : State :=
  match exec i s with
  | .next t => t
  | .fault _ => s
  | .refused _ => s

/-- VRAM with some words. -/
def vram (ws : List (Nat × VWord)) : Memory := { Memory.blank with vram := ws }

/-- A scene with the default parameters. -/
def scene (ws : List (Nat × VWord)) (g : Regs) : Scene := { cfg := Config.default, mem := vram ws, regs := g }

/-! ## Well-formedness -/

/-- 65536 data words do not fit the 16-bit `len` (30_encoding.md R111): refused. -/
theorem test_wellFormed_refuses (n : Nat) (h : n = 65536) :
    (Instr.wrVram 0 0 (List.replicate n 0)).wellFormed = false := by
  simp only [Instr.wellFormed, List.length_replicate, decide_eq_false_iff_not]
  omega

/-- 65535 data words fit. -/
theorem test_wellFormed_accepts (n : Nat) (h : n = 65535) :
    (Instr.wrVram 0 0 (List.replicate n 0)).wellFormed = true := by
  simp only [Instr.wellFormed, List.length_replicate, decide_eq_true_eq]
  omega

/-! ## Decoding: words written out in the spec -/

/-- V30-1. -/
theorem test_decode_nop : decode [0x0000000000000000] = .command .nop [] := by decide

/-- V30-13: the tag, the offset, five data words in two payload words. -/
theorem test_decode_wrVram : decode [0x0103800000640005, 0x4444333322221111, 0x0000000000005555] =
    .command (.wrVram 7 100 [0x1111, 0x2222, 0x3333, 0x4444, 0x5555]) [] := by decide

/-- V30-7: decodes, although the index is out of range. -/
theorem test_decode_wrCgram : decode [0x0201800001000000] = .command (.wrCgram 3 256 0) [] := by decide

/-- V30-10: every field of a sprite entry. -/
theorem test_decode_wrOam : decode [0x03018282DB5791FD] = .command (.wrOam 3 5
    { size := true, vflip := false, hflip := true, prio := 2, pal := 6, name := true, tile := 0xAB, y := 200,
      x := 0x1FD }) [] := by decide

/-- V30-11: the pseudo-command `OAM_HIDE 127`. -/
theorem test_encode_oamHide : encode (oamHide 127 0) = [0x03003F800001E000] := by decide

/-- V30-15. -/
theorem test_decode_renderLine : decode [0x100000000000000A] = .command (.renderLine 10) [] := by decide

/-- V30-16. -/
theorem test_decode_renderFrame : decode [0x1100000000000000] = .command .renderFrame [] := by decide

/-- V30-17. -/
theorem test_decode_getFrame : decode [0x1200000000000000] = .command .getFrame [] := by decide

/-- The illegal words of 95_test_vectors.md 2.1. -/
theorem test_decode_illegal :
    decode [0x0500000000000000] = .illegal .reservedOpcode [] ∧ decode [0xFF00000000000000] = .illegal .reservedOpcode [] ∧
    decode [0x0000000000000001] = .illegal .mustBeZero [] ∧ decode [0x1000000100000000] = .illegal .mustBeZero [] ∧
    decode [0x0400000100010001] = .illegal .mustBeZero [] ∧ decode [0x04000000002E0000] = .illegal .noSuchRegister [] ∧
    decode [0x0300000400000000] = .illegal .mustBeZero [] ∧ decode [0x1100000000000001] = .illegal .mustBeZero [] := by
  decide

/-- A rejected `WR_VRAM` header still consumes its payload word (R116). -/
theorem test_decode_illegal_payload :
    decode [0x0100000100000004, 0xFFFFFFFFFFFFFFFF, 0] = .illegal .mustBeZero [0] := by decide

/-- The host's table hook reads the match word of `WR_REG.WH0` (R291). -/
theorem test_decodeTableWord : decodeTableWord 64 0x04000000001C0000 = some (.wrWh0 0 0) := by decide

/-- Bytes travel least significant first (R113): `RENDER_LINE 10`. -/
theorem test_decodeBytes : decodeBytes [0x0A, 0, 0, 0, 0, 0, 0, 0x10] = .command (.renderLine 10) [] := by decide

/-! ## `WR_REG`: for each register the example of its rule (46_register_write_commands.md R263 to R308) -/

theorem test_wrBright : decode [0x040000000000000F] = .command (.wrBright 0 0x000F) [] ∧
    (after (.wrBright 0 0x000F) s0).regs.bright = 0x000F := by decide

theorem test_wrBgmode : decode [0x0400000000010009] = .command (.wrBgmode 0 0x0009) [] ∧
    (after (.wrBgmode 0 0x0009) s0).regs.bgmode = 0x0009 := by decide

theorem test_wrMosaic : decode [0x0400000000020031] = .command (.wrMosaic 0 0x0031) [] ∧
    (after (.wrMosaic 0 0x0031) s0).regs.mosaic = 0x0031 := by decide

theorem test_wrMosaicph : decode [0x0400000000030000] = .command (.wrMosaicph 0 0x0000) [] ∧
    (after (.wrMosaicph 0 0x0000) s0).regs.mosaicph = 0x0000 := by decide

theorem test_wrBg1sc : decode [0x0400000000040105] = .command (.wrBg1sc 0 0x0105) [] ∧
    (after (.wrBg1sc 0 0x0105) s0).regs.bg1sc = 0x0105 := by decide

theorem test_wrBg2sc : decode [0x0400000000050105] = .command (.wrBg2sc 0 0x0105) [] ∧
    (after (.wrBg2sc 0 0x0105) s0).regs.bg2sc = 0x0105 := by decide

theorem test_wrBg3sc : decode [0x0400000000060105] = .command (.wrBg3sc 0 0x0105) [] ∧
    (after (.wrBg3sc 0 0x0105) s0).regs.bg3sc = 0x0105 := by decide

theorem test_wrBg4sc : decode [0x0400000000070105] = .command (.wrBg4sc 0 0x0105) [] ∧
    (after (.wrBg4sc 0 0x0105) s0).regs.bg4sc = 0x0105 := by decide

theorem test_wrBg1nba : decode [0x0400000000080001] = .command (.wrBg1nba 0 0x0001) [] ∧
    (after (.wrBg1nba 0 0x0001) s0).regs.bg1nba = 0x0001 := by decide

theorem test_wrBg2nba : decode [0x0400000000090001] = .command (.wrBg2nba 0 0x0001) [] ∧
    (after (.wrBg2nba 0 0x0001) s0).regs.bg2nba = 0x0001 := by decide

theorem test_wrBg3nba : decode [0x04000000000A0001] = .command (.wrBg3nba 0 0x0001) [] ∧
    (after (.wrBg3nba 0 0x0001) s0).regs.bg3nba = 0x0001 := by decide

theorem test_wrBg4nba : decode [0x04000000000B0001] = .command (.wrBg4nba 0 0x0001) [] ∧
    (after (.wrBg4nba 0 0x0001) s0).regs.bg4nba = 0x0001 := by decide

theorem test_wrBg1hofs : decode [0x04000000000CFFFF] = .command (.wrBg1hofs 0 0xFFFF) [] ∧
    (after (.wrBg1hofs 0 0xFFFF) s0).regs.bg1hofs = 0xFFFF := by decide

theorem test_wrBg2hofs : decode [0x04000000000DFFFF] = .command (.wrBg2hofs 0 0xFFFF) [] ∧
    (after (.wrBg2hofs 0 0xFFFF) s0).regs.bg2hofs = 0xFFFF := by decide

theorem test_wrBg3hofs : decode [0x04000000000EFFFF] = .command (.wrBg3hofs 0 0xFFFF) [] ∧
    (after (.wrBg3hofs 0 0xFFFF) s0).regs.bg3hofs = 0xFFFF := by decide

theorem test_wrBg4hofs : decode [0x04000000000FFFFF] = .command (.wrBg4hofs 0 0xFFFF) [] ∧
    (after (.wrBg4hofs 0 0xFFFF) s0).regs.bg4hofs = 0xFFFF := by decide

theorem test_wrBg1vofs : decode [0x0400000000100008] = .command (.wrBg1vofs 0 0x0008) [] ∧
    (after (.wrBg1vofs 0 0x0008) s0).regs.bg1vofs = 0x0008 := by decide

theorem test_wrBg2vofs : decode [0x0400000000110008] = .command (.wrBg2vofs 0 0x0008) [] ∧
    (after (.wrBg2vofs 0 0x0008) s0).regs.bg2vofs = 0x0008 := by decide

theorem test_wrBg3vofs : decode [0x0400000000120008] = .command (.wrBg3vofs 0 0x0008) [] ∧
    (after (.wrBg3vofs 0 0x0008) s0).regs.bg3vofs = 0x0008 := by decide

theorem test_wrBg4vofs : decode [0x0400000000130008] = .command (.wrBg4vofs 0 0x0008) [] ∧
    (after (.wrBg4vofs 0 0x0008) s0).regs.bg4vofs = 0x0008 := by decide

theorem test_wrObsel : decode [0x0400000000140062] = .command (.wrObsel 0 0x0062) [] ∧
    (after (.wrObsel 0 0x0062) s0).regs.obsel = 0x0062 := by decide

theorem test_wrM7sel : decode [0x0400000000150006] = .command (.wrM7sel 0 0x0006) [] ∧
    (after (.wrM7sel 0 0x0006) s0).regs.m7sel = 0x0006 := by decide

theorem test_wrM7a : decode [0x0400000000160100] = .command (.wrM7a 0 0x0100) [] ∧
    (after (.wrM7a 0 0x0100) s0).regs.m7a = 0x0100 := by decide

theorem test_wrM7b : decode [0x040000000017FF00] = .command (.wrM7b 0 0xFF00) [] ∧
    (after (.wrM7b 0 0xFF00) s0).regs.m7b = 0xFF00 := by decide

theorem test_wrM7c : decode [0x0400000000180080] = .command (.wrM7c 0 0x0080) [] ∧
    (after (.wrM7c 0 0x0080) s0).regs.m7c = 0x0080 := by decide

theorem test_wrM7d : decode [0x0400000000190100] = .command (.wrM7d 0 0x0100) [] ∧
    (after (.wrM7d 0 0x0100) s0).regs.m7d = 0x0100 := by decide

theorem test_wrM7x : decode [0x04000000001A0080] = .command (.wrM7x 0 0x0080) [] ∧
    (after (.wrM7x 0 0x0080) s0).regs.m7x = 0x0080 := by decide

theorem test_wrM7y : decode [0x04000000001B0080] = .command (.wrM7y 0 0x0080) [] ∧
    (after (.wrM7y 0 0x0080) s0).regs.m7y = 0x0080 := by decide

theorem test_wrWh0 : decode [0x04000000001C0040] = .command (.wrWh0 0 0x0040) [] ∧
    (after (.wrWh0 0 0x0040) s0).regs.wh0 = 0x0040 := by decide

theorem test_wrWh1 : decode [0x04000000001D0040] = .command (.wrWh1 0 0x0040) [] ∧
    (after (.wrWh1 0 0x0040) s0).regs.wh1 = 0x0040 := by decide

theorem test_wrWh2 : decode [0x04000000001E0040] = .command (.wrWh2 0 0x0040) [] ∧
    (after (.wrWh2 0 0x0040) s0).regs.wh2 = 0x0040 := by decide

theorem test_wrWh3 : decode [0x04000000001F0040] = .command (.wrWh3 0 0x0040) [] ∧
    (after (.wrWh3 0 0x0040) s0).regs.wh3 = 0x0040 := by decide

theorem test_wrWselBg1 : decode [0x040000000020002A] = .command (.wrWselBg1 0 0x002A) [] ∧
    (after (.wrWselBg1 0 0x002A) s0).regs.wselBg1 = 0x002A := by decide

theorem test_wrWselBg2 : decode [0x040000000021002A] = .command (.wrWselBg2 0 0x002A) [] ∧
    (after (.wrWselBg2 0 0x002A) s0).regs.wselBg2 = 0x002A := by decide

theorem test_wrWselBg3 : decode [0x040000000022002A] = .command (.wrWselBg3 0 0x002A) [] ∧
    (after (.wrWselBg3 0 0x002A) s0).regs.wselBg3 = 0x002A := by decide

theorem test_wrWselBg4 : decode [0x040000000023002A] = .command (.wrWselBg4 0 0x002A) [] ∧
    (after (.wrWselBg4 0 0x002A) s0).regs.wselBg4 = 0x002A := by decide

theorem test_wrWselObj : decode [0x040000000024002A] = .command (.wrWselObj 0 0x002A) [] ∧
    (after (.wrWselObj 0 0x002A) s0).regs.wselObj = 0x002A := by decide

theorem test_wrWselCol : decode [0x040000000025002A] = .command (.wrWselCol 0 0x002A) [] ∧
    (after (.wrWselCol 0 0x002A) s0).regs.wselCol = 0x002A := by decide

theorem test_wrTm : decode [0x0400000000260011] = .command (.wrTm 0 0x0011) [] ∧
    (after (.wrTm 0 0x0011) s0).regs.tm = 0x0011 := by decide

theorem test_wrTs : decode [0x0400000000270002] = .command (.wrTs 0 0x0002) [] ∧
    (after (.wrTs 0 0x0002) s0).regs.ts = 0x0002 := by decide

theorem test_wrTmw : decode [0x0400000000280001] = .command (.wrTmw 0 0x0001) [] ∧
    (after (.wrTmw 0 0x0001) s0).regs.tmw = 0x0001 := by decide

theorem test_wrTsw : decode [0x0400000000290010] = .command (.wrTsw 0 0x0010) [] ∧
    (after (.wrTsw 0 0x0010) s0).regs.tsw = 0x0010 := by decide

theorem test_wrCgwsel : decode [0x04000000002A0040] = .command (.wrCgwsel 0 0x0040) [] ∧
    (after (.wrCgwsel 0 0x0040) s0).regs.cgwsel = 0x0040 := by decide

theorem test_wrCgadsub : decode [0x04000000002B0061] = .command (.wrCgadsub 0 0x0061) [] ∧
    (after (.wrCgadsub 0 0x0061) s0).regs.cgadsub = 0x0061 := by decide

theorem test_wrFixedcolor : decode [0x04000000002C7C00] = .command (.wrFixedcolor 0 0x7C00) [] ∧
    (after (.wrFixedcolor 0 0x7C00) s0).regs.fixedcolor = 0x7C00 := by decide

theorem test_wrInterlace : decode [0x04000000002D0001] = .command (.wrInterlace 0 0x0001) [] ∧
    (after (.wrInterlace 0 0x0001) s0).regs.interlace = 0x0001 := by decide

/-- V46-1 to V46-4: bits above the width are discarded. -/
theorem test_register_truncation : (after (.wrBright 0 0xFFFF) s0).regs.bright = 0xF ∧
    (after (.wrBgmode 0 0x0017) s0).regs.bgmode = 0x7 ∧ (after (.wrBg1sc 0 0xFFFF) s0).regs.bg1sc = 0x1FF ∧
    (after (.wrM7sel 0 0x000F) s0).regs.m7sel = 0x7 := by decide

/-! ## Memory writes -/

/-- V40-1, V40-2: the last word; a write past it writes neither word. -/
theorem test_wrVram : readVram (after (.wrVram 0 32767 [1]) s0).mem 32767 = 1 ∧
    (after (.wrVram 0 32767 [1, 2]) s0) = { s0 with resp := some (.rej .eRange) } := by decide

/-- V40-3, V40-4: an empty write at the end is legal, beyond it is not. -/
theorem test_wrVram_empty : (after (.wrVram 0 32768 []) s0).resp = some .ok ∧
    (after (.wrVram 0 32769 []) s0).resp = some (.rej .eRange) := by decide

/-- V40-6, V40-8. -/
theorem test_wrCgram : readCgram (after (.wrCgram 0 5 0x83E0) s0).mem 5 = 0x03E0 ∧
    (after (.wrCgram 0 256 0) s0).resp = some (.rej .eRange) := by decide

/-- V40-9, V40-10. -/
theorem test_wrOam :
    (sprite (after (.wrOam 0 127 { hiddenSprite with x := 0x100, y := 255, size := true }) s0).mem 127).x = -256 ∧
    (after (.wrOam 0 128 hiddenSprite) s0).resp = some (.rej .eRange) := by decide

/-- V40-11, V40-15, V40-16 on the small machine: queued; full; immediate writes are never queued. -/
theorem test_queue : (after (.wrCgram 2 0 1) s0).pending = [{ eff := 2, act := .cgram 0 1 }] ∧
    (after (.wrCgram 1 1 2) sFull).resp = some (.rej .eFull) ∧
    readCgram (after (.wrCgram 0 1 2) sFull).mem 1 = 2 := by decide

/-- V40-13, V60-4: a tag below `NEXT`, a tag at `H_LINES`. -/
theorem test_tags : (after (.wrCgram 1 0 1) s2).resp = some (.rej .eTag) ∧
    (after (.wrBright 3 7) s0).resp = some (.rej .eTag) := by decide

/-! ## Render commands -/

/-- V45-6: the backdrop at full brightness. -/
theorem test_renderLine : (after (.renderLine 0) sWhite).resp =
    some (.okRow [{ r := 255, g := 255, b := 255, a := 255 }, { r := 255, g := 255, b := 255, a := 255 }]) := by
  decide +kernel

/-- V47-1: the commit point; V60-5: out of order. -/
theorem test_renderLine_commit : (after (.renderLine 1) { s1 with pending := [queued] }).regs.bright = 7 ∧
    (after (.renderLine 1) { s1 with pending := [queued] }).pending = [] ∧
    (after (.renderLine 2) s1) = { s1 with resp := some (.rej .eSeq) } := by decide +kernel

/-- R326's example: with everything zero the frame is (0, 0, 0, 255). -/
theorem test_renderFrame : (after .renderFrame s0).fb =
    [(0, [{ r := 0, g := 0, b := 0, a := 255 }, { r := 0, g := 0, b := 0, a := 255 }]),
     (1, [{ r := 0, g := 0, b := 0, a := 255 }, { r := 0, g := 0, b := 0, a := 255 }]),
     (2, [{ r := 0, g := 0, b := 0, a := 255 }, { r := 0, g := 0, b := 0, a := 255 }])] := by decide +kernel

/-- V60-6: in mid-frame. -/
theorem test_renderFrame_mid : after .renderFrame s2 = { s2 with resp := some (.rej .eSeq) } := by decide

/-- V60-7, R327. -/
theorem test_getFrame : (after .getFrame s1).resp = some (.okFrame [] 2 3 8) ∧ (after .getFrame s1).seq = s1.seq := by
  decide

/-- R141. -/
theorem test_nop : after .nop s1 = { s1 with resp := some .ok } := by decide

/-- A step from the port: `WR_REG BRIGHT, 8` then a rest; the host's hook; an illegal word (R343). -/
theorem test_step :
    step { s0 with stream := [0x0400000000000008, 0x1] } =
      .next { s0 with regs := { Regs.zero with bright := 8 }, stream := [0x1], resp := some .ok } ∧
    (s0.withFetchWord 64 0x1200000000000000).stream = [0x1200000000000000] ∧
    step { s0 with stream := [0x1] } = .next { s0 with stream := [], resp := some (.rej .eDecode) } :=
  ⟨rfl, rfl, rfl⟩

/-! ## Backgrounds -/

/-- V41-1. -/
theorem test_tilePixel2 : (List.range 8).map (fun c => tilePixel (vram [(8, 0xA5C3)]) 8 2 c 0) =
    [3, 1, 2, 0, 0, 2, 1, 3] := by decide

/-- V41-2. -/
theorem test_tilePixel4 : (List.range 8).map (fun c => tilePixel (vram [(0, 0x0F33), (8, 0xFF55)]) 0 4 c 0) =
    [8, 12, 9, 13, 10, 14, 11, 15] := by decide

/-- V41-3. -/
theorem test_tilePixel8 : (List.range 8).map (fun c =>
      tilePixel (vram [(0, 0x8001), (8, 0x4002), (16, 0x2004), (24, 0x1008)]) 0 8 c 0) =
    [2, 8, 32, 128, 64, 16, 4, 1] := by decide

/-- V41-4. -/
theorem test_mapAddr : mapAddr { Regs.zero with bg1sc := 0x00B } .bg1 40 35 = 5224 ∧
    mapAddr { Regs.zero with bg1sc := 0x00A } .bg1 5 40 = 3333 ∧
    mapAddr { Regs.zero with bg1sc := 0x0FF } .bg1 63 63 = 3071 := by decide

/-- V41-5: a whole pixel, mirrored, upside down. -/
theorem test_bgPixel :
    bgPixel (scene [(1, 0x2C05), (4179, 0x0040)] { Regs.zero with bgmode := 1, bg1nba := 1 }) .bg1 4 9 3 =
      some { prio := true, cidx := 49, direct := false, dcol := 0 } ∧
    bgPixel (scene [(1, 0x6C05), (4179, 0x0040)] { Regs.zero with bgmode := 1, bg1nba := 1 }) .bg1 4 9 3 = none ∧
    (bgPixel (scene [(1, 0xAC05), (4179, 0x0040)] { Regs.zero with bgmode := 1, bg1nba := 1 }) .bg1 4 9 4).isSome := by
  decide

/-- V41-8: colour index and direct colour. -/
theorem test_colour : colourIndex Regs.zero .bg3 2 2 3 = 75 ∧ colourIndex { Regs.zero with bgmode := 1 } .bg2 4 7 15 = 127 ∧
    directColour 7 0xFF = 0x73DE ∧ directColour 0 0x2D = 0x0294 := by decide

/-- V41-9, V41-10. -/
theorem test_mosaic :
    ([0, 3, 4, 10, 255, -1, -4, -5] : List Int).map (mosaicX { Regs.zero with mosaic := 0x31 } .bg1) =
      [0, 0, 4, 8, 252, -4, -4, -8] ∧
    [0, 2, 3, 6, 7, 10, 223].map (mosaicY { Regs.zero with mosaic := 0x31, mosaicph := 3 } .bg1) =
      [0, 2, 3, 3, 7, 7, 223] := by decide

/-- V41-14, V41-15: per-tile offset in modes 2 and 4. -/
theorem test_opt :
    (let sc := scene [(2048, 0x2028), (2049, 0x4038), (2080, 0x2064), (2082, 0x2008)]
        { Regs.zero with bgmode := 2, bg3sc := 8 }
     opt sc .bg1 8 3 3 = (48, 103) ∧ opt sc .bg2 16 3 3 = (72, 3) ∧ opt sc .bg1 24 3 3 = (24, 11) ∧
       opt sc .bg1 7 3 3 = (7, 3)) ∧
    opt (scene [(2048, 0x2028), (2049, 0xA064)] { Regs.zero with bgmode := 4, bg3sc := 8 }) .bg1 16 3 3 = (16, 103) := by
  decide

/-! ## Sprites -/

/-- V42-8. -/
theorem test_objTileAddr :
    objTileAddr { Regs.zero with obsel := 0x0A } { blankLow with tile := 0xFF, name := true } 1 9 = 24577 ∧
    objTileAddr { Regs.zero with obsel := 0x0A } { blankLow with tile := 0x12 } 0 3 = 16675 := by decide

/-- V42-5, V42-6: Y wraps; a sprite wholly to the left is out of range. -/
theorem test_spriteInRange :
    (let e : Sprite := { low := { blankLow with y := 250 }, high := { blankHigh with size := true } }
     spriteInRange (scene [] Regs.zero) e 9 = true ∧ spriteInRange (scene [] Regs.zero) e 10 = false) ∧
    (let e (x : BitVec 9) : Sprite :=
      { low := { blankLow with xlo := x.extractLsb' 0 8 }, high := { blankHigh with xhi := x.getLsbD 8 } }
     spriteInRange (scene [] Regs.zero) (e 0x1F9) 0 = true ∧ spriteInRange (scene [] Regs.zero) (e 0x1F8) 0 = false) := by
  decide

/-- R193 (f) on the small machine: a sprite pixel of value 3 in group 0. -/
theorem test_evalSprites :
    lineObj { s0.scene with mem := { vram [(16, 0xFFFF)] with oamLow := [(0, { blankLow with tile := 1 })] } } 0 =
      [some { cidx := 131, prio := 0, pal47 := false }, some { cidx := 131, prio := 0, pal47 := false }] := by
  decide +kernel

/-! ## Mode 7 -/

/-- V43-4, V43-6, V43-8. -/
theorem test_m7Coord :
    m7Coord { Regs.zero with m7b := 0x0100, m7c := 0xFF00 } 37 91 = (91, -37) ∧
    m7Coord { Regs.zero with m7a := 0x0200, m7d := 0x0200, m7x := 0x0080, m7y := 0x0070 } 100 50 = (72, -12) ∧
    m7Coord { Regs.zero with m7a := 0x0155, m7b := 0x0033, m7c := 0xFFCD, m7d := 0x0155 } 3 5 = (4, 6) := by decide

/-- V43-9: the fetch, and the sub-layer. -/
theorem test_m7Pixel :
    (let sc := scene [(0, 0x0001), (64, 0x0900), (83, 0x8500)]
        { Regs.zero with bgmode := 7, m7a := 0x100, m7d := 0x100, m7sel := 4 }
     m7Pixel sc .bg1 0 0 = some { prio := false, cidx := 9, direct := false, dcol := 0 } ∧
       m7Pixel sc .bg2 3 2 = some { prio := true, cidx := 5, direct := false, dcol := 0 }) := by decide

/-- R207, C8: with EXTBG = 0 there is no sub-layer, even where a table gives BG2 a plain depth in mode 7; with
EXTBG = 1 there is. -/
theorem test_m7SubNeedsExtbg :
    (let odd : Config := { Config.default with modeDef := List.replicate 8 ⟨.bpp8, .bpp8, .absent, .absent, false⟩ }
     let sc (r : BitVec 3) : Scene := { cfg := odd, mem := vram [(0, 0x0001), (83, 0x8500)],
                                        regs := { Regs.zero with bgmode := 7, m7a := 0x100, m7d := 0x100, m7sel := r } }
     layerPixel (sc 0) .bg2 3 2 = none ∧
       layerPixel (sc 4) .bg2 3 2 = some { prio := true, cidx := 5, direct := false, dcol := 0 }) := by decide

/-- V43-10: the four repeat modes outside the texture. -/
theorem test_m7Repeat :
    (let sc (r : BitVec 3) := scene [(0, 0x0701), (64, 0x0900)]
        { Regs.zero with bgmode := 7, m7a := 0x100, m7d := 0x100, m7sel := r, bg1hofs := 0xFFF8 }
     m7Sample (sc 0) 0 0 = some 7 ∧ m7Sample (sc 1) 0 0 = some 7 ∧ m7Sample (sc 2) 0 0 = none ∧
       m7Sample (sc 3) 0 0 = some 7 ∧ m7Sample (sc 2) 8 0 = some 9) := by decide

/-! ## Windows, ranks, colour math -/

/-- V44-2: three of its rows. -/
theorem test_win :
    (let g (w : BitVec 6) : Regs := { Regs.zero with wh0 := 50, wh1 := 100, wh2 := 80, wh3 := 120, wselCol := w }
     let row (w : BitVec 6) := ([49, 50, 79, 80, 100, 101, 120, 121] : List Int).map (win (g w) .backdrop)
     row 0b000011 = [true, false, false, false, false, true, true, true] ∧
     row 0b101010 = [false, true, true, false, false, true, true, false] ∧
     row 0b001110 = [true, true, true, true, true, false, false, true]) := by decide

/-- V44-1: ranks of modes 1 and 7. -/
theorem test_ranks :
    (let r := rankRow Config.defaultRank { Regs.zero with bgmode := 1 }
     bgRank r .bg1 false = 6 ∧ objRank r 2 = 7 ∧ objRank r 1 = 4) ∧
    (let r := rankRow Config.defaultRank { Regs.zero with bgmode := 9 }
     bgRank r .bg3 true = 11 ∧ objRank r 3 = 10) ∧
    (let r := rankRow Config.defaultRank { Regs.zero with bgmode := 7 }
     bgRank r .bg2 true = 5 ∧ objRank r 1 = 4 ∧ bgRank r .bg1 false = 3) := by decide

/-- V45-1, V45-2. -/
theorem test_blend : blendChannel false true 31 5 = 18 ∧ blendChannel true true 10 31 = 0 ∧
    blendChannel false false 20 15 = 31 ∧ brightChannel 7 20 = 74 ∧ brightChannel 8 15 = 66 := by decide

/-! ## Witnesses: every statement's hypotheses can be met, clause by clause -/

/-- The invariant holds after reset of the small machine. -/
theorem s0_inv : s0.Inv :=
  ⟨by decide, by decide, by decide, by decide, by decide, by decide, by decide, by decide, by decide⟩

theorem s1_inv : s1.Inv :=
  ⟨by decide, by decide, by decide, by decide, by decide, by decide, by decide, by decide, by decide⟩

theorem s2_inv : s2.Inv :=
  ⟨by decide, by decide, by decide, by decide, by decide, by decide, by decide, by decide, by decide⟩

theorem s0_now : tagNow s0 0 := ⟨by decide, by decide⟩

theorem s0_later : tagLater s0 2 := ⟨by decide, by decide⟩

theorem s0_bad : ¬ tagLegal s0 3 := fun h => absurd h.2 (by decide)

theorem s0_room : queueHasRoom s0 := fun _ h => nomatch h

theorem sFull_full : queueIsFull sFull := rfl

theorem sFull_later : tagLater sFull 2 := ⟨by decide, by decide⟩

theorem s0_notMid : ¬ midFrame s0 := fun ⟨_, h⟩ => nomatch h

theorem witness_ResetLeavesDefinedState : ∃ g, g = (State.resetWith tiny Memory.blank []).regs := ⟨_, rfl⟩

theorem witness_ResetMeetsInvariant : tiny.wf = true ∧ Memory.blank.wf = true ∧ fbWf tiny [] = true := by decide

theorem witness_StepKeepsInvariant : s0.Inv ∧ step s0 = .next s0 := ⟨s0_inv, rfl⟩

theorem witness_ReachableStatesAreLegal : Reachable s0 :=
  .reset tiny Memory.blank [] (by decide) (by decide) (by decide)

theorem witness_StepRunsTheDecodedCommand : decode (s0.withStream [0x1200000000000000, 5]).stream = .command .getFrame [5] := by
  decide

theorem witness_StepWithoutACommandIsIdle :
    decode s0.stream = .nothing ∧ decode (s0.withStream [0x0100000000000001]).stream = .waiting := by decide

/-- A header of each of R343's kinds, at the first value outside its range where it has one, and a legal one. -/
theorem witness_IllegalHeadersAreRejected :
    ((0x0500000000000000 : Word).extractLsb' 56 8).toNat ∉ [0x00, 0x01, 0x02, 0x03, 0x04, 0x10, 0x11, 0x12] ∧
    (((0x1100000000000001 : Word).extractLsb' 56 8).toNat ∈ [0x00, 0x11, 0x12] ∧
      (0x1100000000000001 : Word).extractLsb' 0 56 ≠ 0) ∧
    (((0x1000000000010000 : Word).extractLsb' 56 8).toNat = 0x10 ∧ (0x1000000000010000 : Word).extractLsb' 16 40 ≠ 0) ∧
    (((0x0100000100000004 : Word).extractLsb' 56 8).toNat ∈ [0x01, 0x02, 0x04] ∧
      (0x0100000100000004 : Word).extractLsb' 32 15 ≠ 0) ∧
    (((0x0300000400000000 : Word).extractLsb' 56 8).toNat = 0x03 ∧ (0x0300000400000000 : Word).extractLsb' 34 5 ≠ 0) ∧
    (((0x04000000002E0000 : Word).extractLsb' 56 8).toNat = 0x04 ∧
      0x2D < ((0x04000000002E0000 : Word).extractLsb' 16 16).toNat) ∧
    ((0x04000000002D0000 : Word).extractLsb' 16 16).toNat = 0x2D := by decide

theorem witness_DecodeOfEncodeIsTheCommand : (Instr.wrVram 511 65535 [1, 2, 3]).wellFormed = true := by decide

theorem witness_EncodeOfDecodeIsTheHeader :
    decode [0x1200000000000000] = .command .getFrame [] ∧ (∀ e o d, Instr.getFrame ≠ .wrVram e o d) :=
  ⟨by decide, fun _ _ _ h => nomatch h⟩

theorem witness_StreamByteOrder : 7 < 8 := by decide

/-- `len` = 5 needs two payload words: one is too few, two are enough. -/
theorem witness_PayloadOfWrVram :
    (0x0100000010000005 : Word).extractLsb' 56 8 = 1#8 ∧ (0x0100000010000005 : Word).extractLsb' 32 15 = 0#15 ∧
    (((0x0100000010000005 : Word).extractLsb' 0 16).toNat + 3) / 4 = 2 ∧ 4 < 5 := by decide

theorem witness_NopCompletes :
    (0x0000000000000001 : Word).extractLsb' 56 8 = 0#8 ∧ (0x0000000000000001 : Word).extractLsb' 0 56 ≠ 0#56 := by decide

/-- The five clauses of `WrVramEffects`: the first block out of range, the last in range, and the tags. -/
theorem witness_WrVramEffects : 32768 < (32767#16).toNat + [1#16, 2#16].length ∧ (32767#16).toNat + [1#16].length ≤ 32768 ∧
    ¬ tagLegal s0 3 ∧ tagNow s0 0 ∧ (tagLater sFull 2 ∧ queueIsFull sFull) ∧ (tagLater s0 2 ∧ queueHasRoom s0) ∧
    [1#16][0]? = some 1#16 :=
  ⟨by decide, by decide, s0_bad, s0_now, ⟨sFull_later, sFull_full⟩, ⟨s0_later, s0_room⟩, rfl⟩

theorem witness_WrCgramEffects : 255 < (256#16).toNat ∧ (255#16).toNat ≤ 255 ∧
    ¬ tagLegal s0 3 ∧ tagNow s0 0 ∧ (tagLater sFull 2 ∧ queueIsFull sFull) ∧ (tagLater s0 2 ∧ queueHasRoom s0) :=
  ⟨by decide, by decide, s0_bad, s0_now, ⟨sFull_later, sFull_full⟩, ⟨s0_later, s0_room⟩⟩

theorem witness_WrOamEffects : 127 < (128#8).toNat ∧ (127#8).toNat ≤ 127 ∧
    ¬ tagLegal s0 3 ∧ tagNow s0 0 ∧ (tagLater sFull 2 ∧ queueIsFull sFull) ∧ (tagLater s0 2 ∧ queueHasRoom s0) :=
  ⟨by decide, by decide, s0_bad, s0_now, ⟨sFull_later, sFull_full⟩, ⟨s0_later, s0_room⟩⟩

/-- For the five statements about immediate register writes: after reset, and in mid-frame at the last scanline. -/
theorem witness_WrRegPictureObjectsMode7 : tagNow s0 0 ∧ tagNow s2 2 := ⟨s0_now, by decide, by decide⟩

theorem witness_WrRegBackgroundBases : tagNow s0 0 := s0_now

theorem witness_WrRegBackgroundScroll : tagNow s0 0 := s0_now

theorem witness_WrRegWindows : tagNow s0 0 := s0_now

theorem witness_WrRegScreensColourMath : tagNow s0 0 := s0_now

theorem witness_RegisterValuesAreTruncated : tagNow s0 0 ∧ RegName.bright ≠ RegName.tm := ⟨s0_now, by decide⟩

theorem witness_RegisterWritesRejectedOrQueued :
    ¬ tagLegal s0 3 ∧ (tagLater sFull 2 ∧ queueIsFull sFull) ∧ (tagLater s0 2 ∧ queueHasRoom s0) :=
  ⟨s0_bad, ⟨sFull_later, sFull_full⟩, ⟨s0_later, s0_room⟩⟩

/-- Both clauses of `CommitPoint`: a scanline that is not the last, with a write due, and the last. -/
theorem witness_CommitPoint : ({ s1 with pending := [queued] } : State).Inv ∧ (1#16).toNat = s1.next ∧
    (1#16).toNat + 1 < s1.cfg.hLines ∧ s2.Inv ∧ (2#16).toNat = s2.next ∧ (2#16).toNat + 1 = s2.cfg.hLines :=
  ⟨⟨by decide, by decide, by decide, by decide, by decide, by decide, by decide, by decide, by decide⟩,
    by decide, by decide, s2_inv, by decide, by decide⟩

theorem witness_QueuedWriteIsInvisibleBeforeItsBoundary : tagLater s0 queued.eff ∧ s0.next + 1 < queued.eff.toNat :=
  ⟨⟨by decide, by decide⟩, by decide⟩

/-- Both clauses: one scanline before the boundary (k = 1), and the boundary itself. -/
theorem witness_QueuedRegisterWriteAppliesAtItsTag :
    tagLater s0 2 ∧ queueHasRoom s0 ∧ s0.next + 1 < (2#9).toNat := ⟨s0_later, s0_room, by decide⟩

/-- For every statement about an accepted `RENDER_LINE`: `n = NEXT`; and one that is out of order. -/
theorem witness_RenderLineAnswersItsRow : (0#16).toNat = s0.next ∧ (1#16).toNat ≠ s0.next := by decide

theorem witness_LineWritesOnlyItsRow : (0#16).toNat = s0.next ∧ (∀ e ∈ s0.pending, e.eff.toNat ≠ (0#16).toNat + 1) ∧
    1 < s0.cfg.width := by decide

theorem witness_LineDependsOnTheSceneOnly :
    s0.scene = (s0.withFb [(0, [])]).scene ∧ (0#16).toNat = s0.next ∧ (0#16).toNat = (s0.withFb [(0, [])]).next := by decide

/-- Two states with the same scene and different frame buffers. -/
theorem witness_SameSceneSameFrame :
    s0.Inv ∧ (s0.withFb [(0, [blankPixel, { blankPixel with r := 1 }])]).Inv ∧
    s0.scene = (s0.withFb [(0, [blankPixel, { blankPixel with r := 1 }])]).scene ∧ s0.pending = [] ∧ ¬ midFrame s0 :=
  ⟨s0_inv, ⟨by decide, by decide, by decide, by decide, by decide, by decide, by decide, by decide, by decide⟩, rfl, rfl,
    s0_notMid⟩

theorem witness_RenderFrameIsItsLines : midFrame s1 ∧ ¬ midFrame s0 ∧ s0.cfg.hLines ≤ 65536 ∧ s0.Inv ∧ tiny.wf = true ∧
    (vram [(5, 1)]).wf = true ∧ fbWf tiny [] = true :=
  ⟨⟨0, rfl⟩, s0_notMid, by decide, s0_inv, by decide, by decide, by decide⟩

theorem witness_SequencerTransitions : 1 ≤ s0.cfg.hLines ∧ (0#16).toNat = s0.next ∧ (0#16).toNat + 1 ≠ s0.cfg.hLines ∧
    (2#16).toNat = s2.next ∧ (2#16).toNat + 1 = s2.cfg.hLines ∧ midFrame s1 ∧ ¬ midFrame s0 :=
  ⟨by decide, by decide, by decide, by decide, by decide, ⟨0, rfl⟩, s0_notMid⟩

theorem witness_FirstFrameAfterResetIsBlack : tiny.wf = true ∧ Memory.blank.wf = true ∧ fbWf tiny [] = true := by decide

theorem witness_RejectedCommandsChangeNothing :
    exec (.renderLine 1) s0 = .next (reject s0 .eSeq) ∧ (reject s0 .eSeq).resp = some (.rej .eSeq) ∧
    decode [0x0100000100000004, 1, 2] = .illegal .mustBeZero [2] := ⟨rfl, rfl, by decide⟩

theorem witness_OrderOfChecks :
    decode (s0.withStream [0xFF00000000000000]).stream = .illegal .reservedOpcode [] ∧
    32768 < (32768#16).toNat + [1#16].length ∧ 255 < (256#16).toNat ∧ 127 < (128#8).toNat ∧
    ¬ tagLegal sFull 3 ∧ tagLater sFull 2 ∧ queueIsFull sFull ∧ (255#16).toNat ≤ 255 ∧
    (32767#16).toNat + [1#16].length ≤ 32768 ∧ (127#8).toNat ≤ 127 ∧ (1#16).toNat ≠ s0.next ∧ midFrame s1 :=
  ⟨by decide, by decide, by decide, by decide, fun h => absurd h.2 (by decide), sFull_later, rfl, by decide, by decide,
    by decide, by decide, ⟨0, rfl⟩⟩

/-- A command that leaves every part it may not write, with a write queued; and RENDER_LINE with one not yet due. -/
theorem witness_OnlyTheNamedCommandWrites :
    exec .nop sFull = .next (respond sFull .ok) ∧ (∀ n, Instr.nop ≠ .renderLine n) ∧ Instr.nop ≠ .renderFrame ∧
    (∀ e o d, Instr.nop ≠ .wrVram e o d) ∧ (∀ r e v, Instr.nop ≠ regInstr r e v) ∧
    (∀ e ∈ sFull.pending, ¬ commits .nop sFull e) ∧ (∀ e ∈ sFull.pending, ¬ commits (.renderLine 0) sFull e) :=
  ⟨rfl, by simp, by simp, by simp, fun r _ _ => by cases r <;> simp [regInstr], by simp [commits],
    by simp [commits, sFull, queued]⟩

/-- The function `part` exists, and CLIP and PREVENT take each of the four values. -/
theorem witness_OutputPixel : (0#16).toNat = s0.next ∧ 1 < s0.cfg.width ∧
    (∃ part : Nat → Bool → Bool, ∀ w, part 0 w = false ∧ part 1 w = !w ∧ part 2 w = w ∧ part 3 w = true) ∧
    [0x00#8, 0x50#8, 0xA0#8, 0xF0#8].map (fun v => ((v.extractLsb' 6 2).toNat, (v.extractLsb' 4 2).toNat)) =
      [(0, 0), (1, 1), (2, 2), (3, 3)] :=
  ⟨by decide, by decide, ⟨region, by decide⟩, by decide⟩

theorem witness_ColourMathLaws : 31 ≤ 31 ∧ 20 + 11 ≤ 31 := by decide

theorem witness_BrightnessScale : 15 ≤ 15 ∧ 31 ≤ 31 := by decide

theorem witness_BackdropPicture :
    (0#16).toNat = sWhite.next ∧ sWhite.regs.tm = 0 ∧ sWhite.regs.ts = 0 ∧ sWhite.regs.cgadsub.getLsbD 5 = false ∧
    sWhite.regs.cgwsel.extractLsb' 6 2 = 0 ∧ sWhite.regs.cgwsel.extractLsb' 4 4 = 0 ∧
    (sWhite.withRegs { sWhite.regs with cgadsub := 0x20 }).regs.cgadsub.getLsbD 5 = true := by decide

/-- Each clause of the window logic, for any of the six sets: no window, one, the other, both with each LOGIC, and an empty window. -/
theorem witness_WindowLogic :
    ((0b000001#6).getLsbD 1 = false ∧ (0b000001#6).getLsbD 3 = false) ∧
    ((0b000010#6).getLsbD 1 = true ∧ (0b000010#6).getLsbD 3 = false) ∧
    ((0b001000#6).getLsbD 1 = false ∧ (0b001000#6).getLsbD 3 = true) ∧
    ((0b001010#6).getLsbD 1 = true ∧ (0b001010#6).getLsbD 3 = true ∧ ((0b001010#6).extractLsb' 4 2).toNat = 0) ∧
    ((0b011010#6).extractLsb' 4 2).toNat = 1 ∧ ((0b101010#6).extractLsb' 4 2).toNat = 2 ∧
    ((0b111010#6).extractLsb' 4 2).toNat = 3 ∧ (50#8).toNat < (100#8).toNat := by decide

/-- R228 (c): in mode 1 a BG1 pixel of priority 0 is offered with rank 6, a sprite pixel of priority 2 with rank 7. -/
theorem test_offers :
    offersAt (scene [(1, 0x0C05), (4179, 0x0040)] { Regs.zero with bgmode := 1, bg1nba := 1, tm := 0x11 }) .main
        (some { cidx := 131, prio := 2, pal47 := false }) 9 3 =
      [{ z := 6, src := .bg .bg1, cidx := 49, direct := false, dcol := 0, pal47 := false },
       { z := 7, src := .obj, cidx := 131, direct := false, dcol := 0, pal47 := false }] := by decide

/-- Functions `zbg` and `zobj` exist for every row; a scene where BG1 shows a pixel on the main screen, and one where
the sprite layer does. -/
theorem witness_OfferedCellsAndShownLayers :
    (∀ r : RankRow,
      (∀ p, bgRank r .bg1 p = (if p then r.bg1.p1 else r.bg1.p0) ∧ bgRank r .bg2 p = (if p then r.bg2.p1 else r.bg2.p0) ∧
        bgRank r .bg3 p = (if p then r.bg3.p1 else r.bg3.p0) ∧ bgRank r .bg4 p = (if p then r.bg4.p1 else r.bg4.p0)) ∧
      objRank r 0 = r.obj0 ∧ objRank r 1 = r.obj1 ∧ objRank r 2 = r.obj2 ∧ objRank r 3 = r.obj3) ∧
    (mergeCell (scene [(1, 0x2C05), (4179, 0x0040)] { Regs.zero with bgmode := 1, bg1nba := 1, tm := 1 }) .main none 9 3).src =
      .bg .bg1 ∧
    (mergeCell (scene [] { Regs.zero with tm := 0x10 }) .main (some { cidx := 131, prio := 0, pal47 := false }) 0 0).src =
      .obj :=
  ⟨fun _ => ⟨fun _ => ⟨rfl, rfl, rfl, rfl⟩, rfl, rfl, rfl, rfl⟩, by decide, by decide⟩

theorem witness_WinnerHasMaximalRank : Config.default.rank.distinct = true ∧
    (offersAt (scene [] Regs.zero) .main none 0 0).Perm (offersAt (scene [] Regs.zero) .main none 0 0) ∧
    (backdrop Regs.zero .main).z < { backdrop Regs.zero .main with z := 1 }.z ∧
    (backdrop Regs.zero .main).z ≤ (backdrop Regs.zero .main).z := ⟨by decide, .refl _, by decide, by decide⟩

theorem witness_FallbackModesHaveNoBackground :
    bgMode { Regs.zero with bgmode := 5 } = 5 ∧ bgMode { Regs.zero with bgmode := 6 } = 6 := by decide

/-- R153: modes 5 and 6 have no background layer even under a table that gives BG1 4 bits there; mode 1 has it. -/
theorem test_fallbackModes :
    (let odd : Config := { Config.default with modeDef := List.replicate 8 ⟨.bpp4, .absent, .absent, .absent, false⟩ }
     let px (m : BitVec 4) := layerPixel { cfg := odd, mem := vram [(1, 0x2C05), (4179, 0x0040)],
                                           regs := { Regs.zero with bgmode := m, bg1nba := 1 } } .bg1 9 3
     px 5 = none ∧ px 6 = none ∧ px 1 = some { prio := true, cidx := 49, direct := false, dcol := 0 }) := by decide

/-- Blank sprites all meet scanline 0, so 32 entries below index 32 are in range; entry 40 differs. -/
theorem witness_SpritesBeyondTheFirst32AreDropped :
    (scene [] Regs.zero).cfg = (scene [] Regs.zero).cfg ∧ 32 ≤ 128 ∧
    (∀ i, i < 32 → sprite (vram []) i = sprite { vram [] with oamLow := [(40, { blankLow with y := 99 })] } i) ∧
    32 ≤ ((List.range 32).filter (fun i => spriteInRange (scene [] Regs.zero) (sprite (vram []) i) 0)).length := by
  decide

theorem witness_LowerSpriteIndexWins :
    (let sc : Scene := { s0.scene with mem := { vram [(16, 0xFFFF)] with oamLow := [(0, { blankLow with tile := 1 })] } }
     (scanSprites sc 0 (List.range 1) (ObjScan.start sc.cfg)).buf[0]? =
       some (some { cidx := 131, prio := 0, pal47 := false })) := by decide

/-- A column that a sprite reaches; X one to the left of a tile, at its two ends, and one to the right. -/
theorem witness_SpriteLimits :
    (let sc : Scene := { s0.scene with mem := { vram [(16, 0xFFFF)] with oamLow := [(0, { blankLow with tile := 1 })] } }
     sc.cfg.objSize[(sc.regs.obsel.extractLsb' 5 3).toNat]? = some ⟨⟨8, 8⟩, ⟨16, 16⟩⟩ ∧
       spriteInRange sc (sprite sc.mem 0) 7 = true ∧ spriteInRange sc (sprite sc.mem 0) 8 = false ∧
       tileOnScreen sc.cfg (-8) = false ∧ tileOnScreen sc.cfg (-7) = true ∧ tileOnScreen sc.cfg 1 = true ∧
       tileOnScreen sc.cfg 2 = false ∧
     1 < sc.cfg.width ∧ 0 < (acceptedSprites sc 0).length ∧ tileDot sc 0 0 (0, 0) ≠ none ∧ tileDot sc 0 7 (0, 0) ≠ none ∧
       tileDot sc 0 (-1) (0, 0) = none ∧ tileDot sc 0 8 (0, 0) = none ∧ tileDot sc 1 0 (0, 0) = none) := by decide

theorem witness_SpritePixelValue :
    some { cidx := 131, prio := 0, pal47 := false } ∈
      lineObj { s0.scene with mem := { vram [(16, 0xFFFF)] with oamLow := [(0, { blankLow with tile := 1 })] } } 0 := by
  decide +kernel

theorem witness_HiddenSpriteIsNeverShown :
    tagNow s0 0 ∧ (127#8).toNat ≤ 127 ∧ (objDim s0.cfg (objPreset s0.regs) false).h ≤ 16 := ⟨s0_now, by decide, by decide⟩

theorem witness_Mode7IdentityIsDirectSample :
    (let g : Regs := { Regs.zero with m7a := 256, m7d := 256 }
     g.m7a = 256 ∧ g.m7d = 256 ∧ g.m7b = 0 ∧ g.m7c = 0 ∧ g.m7x = 0 ∧ g.m7y = 0 ∧ g.bg1hofs = 0 ∧ g.bg1vofs = 0 ∧
       mosaicN g .bg1 = 1 ∧ 1023 < 1024) := by decide

/-- The candidates' clauses of `Mode7Transform`: pixel values 0, 128 (no colour in bits 6:0) and 255, with EXTBG and
without, with DIRECT and without, and the default table in mode 7. -/
theorem witness_Mode7Transform_candidates :
    (let sc (r : BitVec 3) (c : BitVec 8) (w : VWord) := scene [(0, w)] { Regs.zero with bgmode := 7, m7sel := r, cgwsel := c }
     m7Sample (sc 0 0 0) 0 0 = some 0 ∧ m7Sample (sc 4 0 0x8000) 0 0 = some 128 ∧ (128#8).toNat % 128 = 0 ∧
       m7Sample (sc 4 1 0xFF00) 0 0 = some 255 ∧ (255#8).toNat % 128 ≠ 0 ∧ (255#8) ≠ 0 ∧
       (sc 4 1 0).regs.m7sel.getLsbD 2 = true ∧ (sc 4 1 0).regs.cgwsel.getLsbD 0 = true ∧
       (sc 0 0 0).regs.m7sel.getLsbD 2 = false ∧ (sc 0 0 0).regs.cgwsel.getLsbD 0 = false ∧
       bgMode (sc 0 0 0).regs = 7 ∧ (sc 0 0 0).cfg.modeDef = Config.defaultModeDef ∧
       m7Sample (scene [] { Regs.zero with bgmode := 7, m7sel := 2, m7x := 0xFFFF }) 0 0 = none) := by decide

/-- The corner clauses of `Mode7Transform`, the outside ones at the edges −1 and 1024. -/
theorem witness_Mode7Transform :
    (let g : Regs := { Regs.zero with m7a := 0xFF80 }
     g.m7b = 0 ∧ (1 : Int) + g.bg1hofs.toInt - g.m7x.toInt = 1) ∧
    Regs.zero.m7a = 0 ∧ ¬ ((0 : Int) ≤ -1 ∧ (-1 : Int) ≤ 1023 ∧ (0 : Int) ≤ 0 ∧ (0 : Int) ≤ 1023) ∧
    ¬ ((0 : Int) ≤ 0 ∧ (0 : Int) ≤ 1023 ∧ (0 : Int) ≤ 1024 ∧ (1024 : Int) ≤ 1023) ∧
    m7Repeat { Regs.zero with m7sel := 2 } = 2 ∧ m7Repeat { Regs.zero with m7sel := 3 } = 3 ∧
    m7Repeat Regs.zero = 0 ∧ m7Repeat { Regs.zero with m7sel := 1 } = 1 := by decide

theorem witness_Mode7ReadsTheLowerHalfOfVram :
    (∀ a, a < 16384 → readVram (vram [(16384, 1)]) a = readVram (vram []) a) ∧
    readVram (vram [(16384, 1)]) 16384 ≠ readVram (vram []) 16384 :=
  ⟨fun a h => by
    have : ¬ (16384 = a) := by omega
    simp [readVram, vram, readCell, this], by decide⟩

/-- N = 4, phase 3: X 8 and 11, scanlines 3 and 6 lie in one block. -/
theorem witness_MosaicBlocksShareOnePixel :
    (let g : Regs := { Regs.zero with mosaic := 0x31, mosaicph := 3 }
     4 = (if g.mosaic.getLsbD Bg.bg1.num then (g.mosaic.extractLsb' 4 4).toNat + 1 else 1) ∧ 3 = g.mosaicph.toNat ∧
       (8 : Int) / ((4 : Nat) : Int) = 11 / ((4 : Nat) : Int) ∧ 3 ≤ 3 ∧ 3 ≤ 6 ∧ (3 - 3) / 4 = (6 - 3) / 4) := by decide

/-- A tilemap of each size, 256, 512 and 1024 pixels, and scroll values that agree modulo it; mode 2 has per-tile
offset. -/
theorem witness_ScrollWrapsAroundTheTilemap :
    (let g (s : BitVec 9) : Regs := { Regs.zero with bg1sc := s, bgmode := 2 }
     mapW (g 0) .bg1 * tileSize (g 0) .bg1 = 256 ∧ (0xFFFF#16).toNat % 256 = (0x00FF#16).toNat % 256 ∧
     mapW (g 1) .bg1 * tileSize (g 1) .bg1 = 512 ∧ (0xFFFF#16).toNat % 512 = (0x01FF#16).toNat % 512 ∧
     mapW (g 0x101) .bg1 * tileSize (g 0x101) .bg1 = 1024 ∧ (0xFFFF#16).toNat % 1024 = (0x03FF#16).toNat % 1024 ∧
     optApplies (scene [] (g 0)) .bg1 = true) := by decide

/-- The function `word` exists in every scene; R171's example has a pixel (mode 1, BG1), mode 2 has columns with an
override and a leftmost column without, and mode 3 with DIRECT has BG1 at 8 bits. -/
theorem witness_TileLayerPixel (sc : Scene) :
    (∃ word : Bg → Int → Int → VWord, ∀ (k : Bg) (u v : Int) (w h t tx ty : Nat),
      w = (if (bgSc sc.regs k).getLsbD 0 then 64 else 32) → h = (if (bgSc sc.regs k).getLsbD 1 then 64 else 32) →
      t = (if (bgSc sc.regs k).getLsbD 8 then 16 else 8) → tx = (u % ((w * t : Nat) : Int)).toNat / t →
      ty = (v % ((h * t : Nat) : Int)).toNat / t →
      word k u v = readVram sc.mem ((((bgSc sc.regs k).extractLsb' 2 6).toNat * 1024 + ty % 32 * 32 + tx % 32 +
        (if 32 ≤ tx then 1024 else 0) + (if 32 ≤ ty then (if w = 64 then 2048 else 1024) else 0)) % 32768)) ∧
    bgPixel (scene [(1, 0x2C05), (4179, 0x0040)] { Regs.zero with bgmode := 1, bg1nba := 1 }) .bg1 4 9 3 ≠ none ∧
    bgPixel (scene [(4179, 0x0040)] { Regs.zero with bgmode := 1, bg1nba := 1 }) .bg1 4 9 3 = none ∧
    Config.default.modeDef[2]? = some ⟨.bpp4, .bpp4, .absent, .absent, true⟩ ∧ (0 : Int) < (9 + 0) / 8 - 0 / 8 ∧ ¬ (0 : Int) < (7 + 0) / 8 - 0 / 8 ∧
    Config.default.modeDef[3]? = some ⟨.bpp8, .bpp4, .absent, .absent, false⟩ :=
  ⟨⟨fun k u v => readVram sc.mem
      (let w := if (bgSc sc.regs k).getLsbD 0 then 64 else 32
       let h := if (bgSc sc.regs k).getLsbD 1 then 64 else 32
       let t := if (bgSc sc.regs k).getLsbD 8 then 16 else 8
       let tx := (u % ((w * t : Nat) : Int)).toNat / t
       let ty := (v % ((h * t : Nat) : Int)).toNat / t
       (((bgSc sc.regs k).extractLsb' 2 6).toNat * 1024 + ty % 32 * 32 + tx % 32 +
        (if 32 ≤ tx then 1024 else 0) + (if 32 ≤ ty then (if w = 64 then 2048 else 1024) else 0)) % 32768),
    fun k u v w h t tx ty hw hh ht hx hy => by subst hw hh ht hx hy; rfl⟩,
    by decide, by decide, by decide, by decide, by decide, by decide⟩

theorem witness_TilePixelIsItsPlaneBits : 7 < 8 ∧ 3 < 8 / 2 ∧ readVram (vram [(8, 0xA5C3)]) ((8 + 0) % 32768) = 0xA5C3 := by
  decide

/-- OBJ off on both screens; a picture of 2 columns with padding, and the same without. -/
theorem witness_WidescreenKeepsTheCentre :
    (let s : State := { s0 with cfg := { tiny with padL := 1, padR := 1 } }
     (0#16).toNat = s.next ∧ (s.regs.tm.getLsbD 4 = false ∧ s.regs.ts.getLsbD 4 = false) ∧ 1 < s.cfg.wBase ∧
       ({ s with cfg := { s.cfg with padL := 0, padR := 0 } } : State).cfg.width = 2) := by decide

theorem witness_ByteImages : Config.default.wf = true ∧ 255 < Config.default.width ∧
    4 * ({ Config.default with pitch := 1028 } : Config).width ≤ 1027 ∧ 1027 < 1028 := by decide

end Sys2Proof.Tests
end

section
/-! The command port and the byte images (00_scope.md R8, R12): what a step does with what the decoder finds at the
port, and which byte of a row, of a word and of an entry stands at an offset. -/

namespace Sys2Proof.Machine

/-! ## The command port -/

theorem fetch_of_command {s : State} {i : Instr} {rest : List Word} (h : decode s.stream = .command i rest) :
    fetch s = .command i (s.withStream rest) := by
  simp only [fetch, h]

theorem fetch_of_noCommand {s : State} (h : decode s.stream = .nothing ∨ decode s.stream = .waiting) :
    fetch s = .none := by
  obtain h | h := h <;> simp only [fetch, h]

/-- Settles O5: `fetch` hands `step` the decoded command and the state with the rest of the port. -/
theorem stepRunsTheDecodedCommand : Obligations.StepRunsTheDecodedCommand := by
  intro s i rest h
  simp only [step, fetch_of_command h, State.withStream]

/-- Settles O6: without a whole command `fetch` finds none, and the step is the idle one. -/
theorem stepWithoutACommandIsIdle : Obligations.StepWithoutACommandIsIdle := by
  intro s h
  simp only [step, fetch_of_noCommand h]

/-! ## Byte images -/

theorem four_mul_width_le_pitch_of_wf {c : Config} (h : c.wf = true) : 4 * c.width ≤ c.pitch := by
  simp only [Config.wf, Bool.and_eq_true, decide_eq_true_eq] at h
  obtain ⟨⟨⟨⟨⟨-, hpitch⟩, -⟩, -⟩, -⟩, -⟩ := h
  exact hpitch

/-- Byte `k` of row `y`, for every byte of the row: a byte of pixel `k / 4`, or padding. -/
theorem frameByte_row (c : Config) (fb : FrameBuf) (y : Nat) {k : Nat} (hk : k < c.pitch) :
    frameByte c fb (y * c.pitch + k) =
      if k < 4 * c.width then some (pixelByte (fbPixel c fb y (k / 4)) (k % 4)) else none := by
  have hmod : (y * c.pitch + k) % c.pitch = k := by rw [Nat.mul_add_mod', Nat.mod_eq_of_lt hk]
  have hdiv : (y * c.pitch + k) / c.pitch = y := by
    rw [Nat.mul_comm, Nat.mul_add_div (Nat.zero_lt_of_lt hk), Nat.div_eq_of_lt hk, Nat.add_zero]
  simp only [frameByte, hmod, hdiv]

/-- The four bytes of a pixel stand together, at four times its column (00_scope.md R8). -/
theorem frameByte_pixel {c : Config} (hc : c.wf = true) (fb : FrameBuf) (y : Nat) {col j : Nat} (hcol : col < c.width)
    (hj : j < 4) : frameByte c fb (y * c.pitch + (4 * col + j)) = some (pixelByte (fbPixel c fb y col) j) := by
  have hpitch := four_mul_width_le_pitch_of_wf hc
  have hdiv : (4 * col + j) / 4 = col := by omega
  have hmod : (4 * col + j) % 4 = j := by omega
  rw [frameByte_row c fb y (by omega), if_pos (by omega), hdiv, hmod]

theorem frameByte_padding (c : Config) (fb : FrameBuf) (y : Nat) {k : Nat} (hwidth : 4 * c.width ≤ k)
    (hpitch : k < c.pitch) : frameByte c fb (y * c.pitch + k) = none := by
  rw [frameByte_row c fb y hpitch, if_neg (Nat.not_lt.mpr hwidth)]

theorem cellByte_even (v : BitVec 16) (a : Nat) : cellByte v (2 * a) = v.extractLsb' 0 8 :=
  if_pos (by omega)

theorem cellByte_odd (v : BitVec 16) (a : Nat) : cellByte v (2 * a + 1) = v.extractLsb' 8 8 :=
  if_neg (by omega)

/-- The low byte of a CGRAM entry loses nothing to the entry's zero-extension (log entry 20). -/
theorem extractLsb'_low_setWidth (v : Colour15) : (v.setWidth 16).extractLsb' 0 8 = v.extractLsb' 0 8 := by
  apply BitVec.eq_of_toNat_eq
  simp [BitVec.extractLsb'_toNat]

/-- Settles O59: the pixels and the padding from the bytes of a row, the memories from the two bytes of a cell. -/
theorem byteImages : Obligations.ByteImages := by
  refine ⟨fun c fb y col hc hcol => ?_, fun c fb y k => frameByte_padding c fb y, fun m a => ?_⟩
  · have hbyte {j : Nat} (hj : j < 4) := frameByte_pixel hc fb y hcol hj
    exact ⟨hbyte (j := 0) (by decide), hbyte (j := 1) (by decide), hbyte (j := 2) (by decide),
      hbyte (j := 3) (by decide)⟩
  · have heven : 2 * a / 2 = a := by omega
    have hodd : (2 * a + 1) / 2 = a := by omega
    simp only [vramByte, cgramByte, heven, hodd, cellByte_even, cellByte_odd, extractLsb'_low_setWidth, and_self]

end Sys2Proof.Machine
end

section
/-! What a command and a step can do, said once. -/

namespace Sys2Proof.Machine

/-- All that a command can do, whatever its response: nothing, the acceptance of a write to existing cells, the
scanline `NEXT`, or a whole frame from outside one. -/
theorem exec_cases (i : Instr) (s : State) :
    (∃ v, exec i s = .next (respond s v)) ∨
    (∃ e a, actWf a = true ∧ exec i s = .next (acceptWrite e a s)) ∨
    (∃ v, exec i s = .next (respond (line s.next s) v)) ∨
    (¬ midFrame s ∧ ∃ v, exec i s = .next (respond (linesFrom 0 s.cfg.hLines s) v)) := by
  cases i with
  | nop => exact .inl ⟨_, rfl⟩
  | wrVram e o ds =>
    by_cases h : o.toNat + ds.length ≤ 32768
    · exact .inr (.inl ⟨e, .vram o.toNat ds, decide_eq_true h, exec_wrVram_fits e o ds s h⟩)
    · exact .inl ⟨_, exec_wrVram_range e o ds s (by omega)⟩
  | wrCgram e k v =>
    by_cases h : k.toNat ≤ 255
    · exact .inr (.inl ⟨e, .cgram k.toNat _, decide_eq_true (Nat.lt_succ_of_le h), exec_wrCgram_fits e k v s h⟩)
    · exact .inl ⟨_, exec_wrCgram_range e k v s (by omega)⟩
  | wrOam e k f =>
    by_cases h : k.toNat ≤ 127
    · exact .inr (.inl ⟨e, .oam k.toNat _ _, decide_eq_true (Nat.lt_succ_of_le h), exec_wrOam_fits e k f s h⟩)
    · exact .inl ⟨_, exec_wrOam_range e k f s (by omega)⟩
  | renderLine n =>
    by_cases h : n.toNat = s.next
    · exact .inr (.inr (.inl ⟨_, h ▸ exec_renderLine_next n s h⟩))
    · exact .inl ⟨_, exec_renderLine_bad n s h⟩
  | renderFrame =>
    by_cases h : midFrame s
    · exact .inl ⟨_, exec_renderFrame_mid s h⟩
    · exact .inr (.inr (.inr ⟨h, _, exec_renderFrame_whole s h⟩))
  | getFrame => exact .inl ⟨_, rfl⟩
  | _ => exact .inr (.inl ⟨_, .reg _ _, rfl, rfl⟩)

/-- All that a step can do: nothing, the rejection of a header, or the execution of a command (00_scope.md R12). -/
theorem step_cases (s : State) :
    step s = .next s ∨ (∃ ws, step s = .next (reject (s.withStream ws) .eDecode)) ∨
      (∃ i ws, step s = exec i (s.withStream ws)) := by
  obtain h | ⟨ws, h⟩ | ⟨i, ws, h⟩ := fetch_cases s
  · exact .inl (by simp only [step, h])
  · exact .inr (.inl ⟨ws, by simp only [step, h]⟩)
  · exact .inr (.inr ⟨i, ws, by simp only [step, h]⟩)

end Sys2Proof.Machine
end

section
/-! The invariant of the state (10_state.md R60 to R65): each operation keeps it, so a command does, so a step does,
so every reachable state meets it. -/

namespace Sys2Proof.Machine

/-! ## The parts of the invariant -/

theorem pendingWf_iff (c : Config) (next : Nat) (e : PendingWrite) :
    pendingWf c next e = true ↔ next < e.eff.toNat ∧ e.eff.toNat < c.hLines ∧ actWf e.act = true := by
  simp [pendingWf, and_assoc]

theorem depthWf_iff (c : Config) (p : List PendingWrite) :
    depthWf c p = true ↔ ∀ d, c.pendqDepth = some d → p.length ≤ d := by
  unfold depthWf
  split <;> simp [*]

theorem queueHasRoom_of_queueFull_eq_false {s : State} (h : queueFull s = false) : queueHasRoom s := by
  intro d hd
  simpa [queueFull, hd] using h

theorem one_le_hLines_of_wf {c : Config} (h : c.wf = true) : 1 ≤ c.hLines := by
  simp only [Config.wf, Bool.and_eq_true, decide_eq_true_eq] at h
  obtain ⟨⟨⟨⟨⟨⟨hlines, -⟩, -⟩, -⟩, -⟩, -⟩, -⟩ := h
  exact hlines

@[simp] theorem applyAct_next (a : WriteAct) (s : State) : (applyAct a s).next = s.next :=
  congrArg Seq.next (applyAct_seq a s)

@[simp] theorem drawLine_next (n : Nat) (s : State) : (drawLine n s).next = s.next := rfl

@[simp] theorem commit_next (n : Nat) (s : State) : (commit n s).next = s.next :=
  congrArg Seq.next (commit_seq n s)

/-- `SEQ` outside a frame means `NEXT` = 0 (10_state.md R61). -/
theorem next_eq_zero_of_not_midFrame {s : State} (h : ¬ midFrame s) : s.next = 0 := by
  unfold State.next
  cases hs : s.seq with
  | idle => rfl
  | scanlineInProgress n => exact absurd ⟨n, hs⟩ h
  | frameComplete => rfl

namespace State.Inv

variable {s : State}

/-- `NEXT` is a scanline of the picture (10_state.md R61). -/
theorem next_lt_hLines (h : s.Inv) : s.next < s.cfg.hLines := by
  have hpos := one_le_hLines_of_wf h.cfg
  have hseq := h.seq
  unfold State.next
  cases hs : s.seq with
  | idle => exact hpos
  | scanlineInProgress n => simpa [hs, seqWf] using hseq
  | frameComplete => exact hpos

theorem pendingWf_of_mem (h : s.Inv) {e : PendingWrite} (he : e ∈ s.pending) :
    s.next < e.eff.toNat ∧ e.eff.toNat < s.cfg.hLines ∧ actWf e.act = true :=
  (pendingWf_iff _ _ _).1 (List.all_eq_true.1 h.pending e he)

/-! ## The operations keep it -/

/-- The invariant says nothing about the port. -/
theorem withStream (h : s.Inv) (ws : List Word) : (s.withStream ws).Inv := { h with }

/-- The invariant says nothing about the response. -/
theorem respond (h : s.Inv) (v : Response) : (respond s v).Inv := { h with }

theorem reject (h : s.Inv) (c : RejCode) : (reject s c).Inv := h.respond _

theorem resetWith {c : Config} {m : Memory} {fb : FrameBuf} (hc : c.wf = true) (hm : m.wf = true)
    (hf : fbWf c fb = true) : (State.resetWith c m fb).Inv where
  cfg := hc
  mem := hm
  fb := hf
  seq := rfl
  pending := rfl
  depth := (depthWf_iff _ _).2 fun _ _ => Nat.zero_le _
  objbuf := List.length_replicate
  mainbuf := List.length_replicate
  subbuf := List.length_replicate

theorem applyAct (h : s.Inv) {a : WriteAct} (ha : actWf a = true) : (applyAct a s).Inv where
  cfg := by simpa using h.cfg
  mem := applyAct_memWf a s h.mem ha
  fb := by simpa using h.fb
  seq := by simpa using h.seq
  pending := by simpa only [applyAct_cfg, applyAct_pending, applyAct_next] using h.pending
  depth := by simpa using h.depth
  objbuf := by simpa using h.objbuf
  mainbuf := by simpa using h.mainbuf
  subbuf := by simpa using h.subbuf

/-- A queue with room takes a legal entry (10_state.md R62). -/
theorem enqueue (h : s.Inv) {e : PendingWrite} (he : pendingWf s.cfg s.next e = true) (hroom : queueHasRoom s) :
    (s.withPending (s.pending ++ [e])).Inv :=
  { h with
    pending := by simpa [he] using h.pending
    depth := (depthWf_iff _ _).2 fun d hd => by simpa using hroom d hd }

theorem acceptWrite (h : s.Inv) (e : Tag) {a : WriteAct} (ha : actWf a = true) : (acceptWrite e a s).Inv := by
  obtain ⟨heq, -⟩ | ⟨heq, -⟩ | ⟨heq, -⟩ | ⟨heq, hnext, hlines, hroom⟩ :=
    acceptWrite_cases e a s <;> rw [heq]
  · exact h.reject _
  · exact (h.applyAct ha).respond _
  · exact h.reject _
  · have he : pendingWf s.cfg s.next ⟨e, a⟩ = true := (pendingWf_iff _ _ _).2 ⟨hnext, hlines, ha⟩
    exact (h.enqueue he (queueHasRoom_of_queueFull_eq_false hroom)).respond _

/-- The stages of a scanline of the picture fill buffers and a row of its width (47_render_commands.md R323). -/
theorem drawLine (h : s.Inv) {n : Nat} (hn : n < s.cfg.hLines) : (drawLine n s).Inv :=
  { h with
    fb := fbWf_writeRow _ _ _ _ h.fb hn (lineRow_length _ _)
    objbuf := lineObj_length _ _
    mainbuf := lineMain_length _ _
    subbuf := lineSub_length _ _ }

/-- After the last scanline `NEXT` is 0, below every tag that stood in `PENDING`. -/
theorem withSeq_frameComplete (h : s.Inv) : (s.withSeq .frameComplete).Inv :=
  { h with
    seq := rfl
    pending := List.all_eq_true.2 fun e he => by
      obtain ⟨hnext, hlines, ha⟩ := h.pendingWf_of_mem he
      exact (pendingWf_iff _ _ _).2 ⟨Nat.zero_lt_of_lt hnext, hlines, ha⟩ }

/-- The commit point takes the entries tagged `NEXT + 1` from `PENDING`, so those that stay are above the new `NEXT`
(20_memory.md R96). -/
theorem commit_withSeq (h : s.Inv) (hn : s.next + 1 < s.cfg.hLines) :
    (commit (s.next + 1) (s.withSeq (.scanlineInProgress s.next))).Inv where
  cfg := by simpa using h.cfg
  mem := commit_memWf _ _ h.mem fun e he => by
    obtain ⟨-, -, ha⟩ := h.pendingWf_of_mem he
    exact ha
  fb := by simpa using h.fb
  seq := by simpa [seqWf] using hn
  pending := by
    simp only [commit_pending, commit_cfg, commit_next, withSeq_pending, withSeq_cfg, withSeq_next,
      Seq.next_scanlineInProgress, stillQueued, List.all_eq_true, List.mem_filter, bne_iff_ne]
    intro e ⟨he, hne⟩
    obtain ⟨hnext, hlines, ha⟩ := h.pendingWf_of_mem he
    exact (pendingWf_iff _ _ _).2 ⟨by omega, hlines, ha⟩
  depth := (depthWf_iff _ _).2 fun d hd => by
    have hlen := (depthWf_iff _ _).1 h.depth d (by simpa using hd)
    simpa [stillQueued] using (List.length_filter_le _ _).trans hlen
  objbuf := by simpa using h.objbuf
  mainbuf := by simpa using h.mainbuf
  subbuf := by simpa using h.subbuf

theorem endLine_at_next (h : s.Inv) : (endLine s.next s).Inv := by
  have hlt := h.next_lt_hLines
  obtain ⟨-, heq⟩ | ⟨hne, heq⟩ := endLine_cases s.next s <;> rw [heq]
  · exact h.withSeq_frameComplete
  · exact h.commit_withSeq (by omega)

/-- The scanline `NEXT` keeps the invariant (47_render_commands.md R321). -/
theorem line_at_next (h : s.Inv) : (line s.next s).Inv := (h.drawLine h.next_lt_hLines).endLine_at_next

/-- So do the scanlines from `NEXT` on, as many as the picture still has (R326). -/
theorem linesFrom_at_next (h : s.Inv) {n k : Nat} (hn : s.next = n) (hk : n + k ≤ s.cfg.hLines) :
    (linesFrom n k s).Inv := by
  induction k generalizing s n with
  | zero => exact h
  | succ k ih =>
    have hline : (line n s).Inv := hn ▸ h.line_at_next
    cases k with
    | zero => exact hline
    | succ k =>
      exact ih hline (line_next n s (by omega)) (by rw [line_cfg]; omega)

end State.Inv

/-! ## Commands, steps, runs -/

theorem exec_keeps_inv {i : Instr} {s t : State} (h : s.Inv) (he : exec i s = .next t) : t.Inv := by
  obtain ⟨v, heq⟩ | ⟨e, a, ha, heq⟩ | ⟨v, heq⟩ | ⟨hmid, v, heq⟩ := exec_cases i s <;>
    obtain rfl := Host.Outcome.next.inj (he.symm.trans heq)
  · exact h.respond v
  · exact h.acceptWrite e ha
  · exact h.line_at_next.respond v
  · exact (h.linesFrom_at_next (next_eq_zero_of_not_midFrame hmid) (Nat.zero_add _).le).respond v

theorem step_keeps_inv {s t : State} (h : s.Inv) (hs : step s = .next t) : t.Inv := by
  obtain heq | ⟨ws, heq⟩ | ⟨i, ws, heq⟩ := step_cases s <;> rw [heq] at hs
  · obtain rfl := Host.Outcome.next.inj hs
    exact h
  · obtain rfl := Host.Outcome.next.inj hs
    exact (h.withStream ws).reject _
  · exact exec_keeps_inv (h.withStream ws) hs

theorem Reachable.inv {s : State} (h : Reachable s) : s.Inv := by
  induction h with
  | reset c m fb hc hm hf => exact State.Inv.resetWith hc hm hf
  | present s ws _ ih => exact ih.withStream _
  | step s t _ hs ih => exact step_keeps_inv ih hs

/-- Settles O3: a step is idle, rejects a header or executes a command, and each keeps the invariant. -/
theorem stepKeepsInvariant : Obligations.StepKeepsInvariant := fun _ _ => step_keeps_inv

/-- Settles O4, by induction on how the state is reached; the invariant bounds `NEXT`. -/
theorem reachableStatesAreLegal : Obligations.ReachableStatesAreLegal :=
  fun _ h => ⟨h.inv, h.inv.next_lt_hLines⟩

end Sys2Proof.Machine
end

section
/-! The commit model (20_memory.md R94 to R96): what the acts of a commit point read and leave, an entry at the end of
`PENDING`, and the scanlines that are rendered before, and at, its boundary. -/

namespace Sys2Proof.Machine

/-! ## Acts -/

theorem applyActs_append (as bs : List WriteAct) (s : State) :
    applyActs (as ++ bs) s = applyActs bs (applyActs as s) := by
  induction as generalizing s with
  | nil => rfl
  | cons a as ih => exact ih _

/-- The acts of a list of entries, applied, are the entries' acts applied one after another. -/
theorem applyActs_map_act (p : List PendingWrite) (s : State) :
    applyActs (p.map PendingWrite.act) s = p.foldl (fun v e => applyAct e.act v) s := by
  induction p generalizing s with
  | nil => rfl
  | cons e p ih => exact ih _

/-- What acts leave in the memories and registers depends on the memories and registers only. -/
theorem applyActs_mem_regs_congr (as : List WriteAct) {s s' : State} (hmem : s.mem = s'.mem)
    (hregs : s.regs = s'.regs) :
    (applyActs as s).mem = (applyActs as s').mem ∧ (applyActs as s).regs = (applyActs as s').regs := by
  induction as generalizing s s' with
  | nil => exact ⟨hmem, hregs⟩
  | cons a as ih => cases a <;> exact ih (by simp [hmem, hregs]) (by simp [hmem, hregs])

/-- An update that commutes with every act commutes with several. -/
theorem applyActs_commute {g : State → State} (h : ∀ a, Function.Commute (applyAct a) g) (as : List WriteAct) :
    Function.Commute (applyActs as) g := by
  intro s
  induction as generalizing s with
  | nil => rfl
  | cons a as ih => rw [applyActs, applyActs, h a s, ih]

theorem applyActs_withPending (as : List WriteAct) (s : State) (p : List PendingWrite) :
    applyActs as (s.withPending p) = (applyActs as s).withPending p :=
  applyActs_commute (g := fun s => s.withPending p) (fun a s => by cases a <;> rfl) as s

theorem applyActs_respond (as : List WriteAct) (s : State) (v : Response) :
    applyActs as (respond s v) = respond (applyActs as s) v :=
  applyActs_commute (g := fun s => respond s v) (fun a s => by cases a <;> rfl) as s

/-! ## The end of a scanline -/

theorem line_of_notLast {n : Nat} {s : State} (h : n + 1 ≠ s.cfg.hLines) :
    line n s = commit (n + 1) ((drawLine n s).withSeq (.scanlineInProgress n)) :=
  if_neg h

theorem line_of_last {n : Nat} {s : State} (h : n + 1 = s.cfg.hLines) :
    line n s = (drawLine n s).withSeq .frameComplete :=
  if_pos h

/-- Drawing reads the scene and leaves it, so the boundary of a scanline applies the due acts to the memories and
registers as they were (47_render_commands.md R321, R323). -/
theorem line_mem_regs {n : Nat} {s : State} (h : n + 1 ≠ s.cfg.hLines) :
    (line n s).mem = (applyActs (dueActs (n + 1) s.pending) s).mem ∧
      (line n s).regs = (applyActs (dueActs (n + 1) s.pending) s).regs := by
  rw [line_of_notLast h]
  exact applyActs_mem_regs_congr _ rfl rfl

theorem line_pending {n : Nat} {s : State} (h : n + 1 ≠ s.cfg.hLines) :
    (line n s).pending = stillQueued (n + 1) s.pending := by
  rw [line_of_notLast h, commit_pending]
  rfl

/-- The tags in `PENDING` lie between `NEXT` and the end of the picture, so none is left for the last scanline
(10_state.md R62). -/
theorem State.Inv.pending_eq_nil_of_last {s : State} (h : s.Inv) (hlast : s.next + 1 = s.cfg.hLines) :
    s.pending = [] :=
  List.eq_nil_iff_forall_not_mem.2 fun _ he => by
    obtain ⟨hnext, hlines, -⟩ := h.pendingWf_of_mem he
    omega

/-! ## The latest response is not read -/

theorem commit_respond (n : Nat) (s : State) (v : Response) : commit n (respond s v) = respond (commit n s) v :=
  applyActs_respond _ (s.withPending _) v

theorem endLine_respond (n : Nat) (s : State) (v : Response) : endLine n (respond s v) = respond (endLine n s) v := by
  unfold endLine
  rw [respond_cfg]
  split
  · rfl
  · exact commit_respond _ (s.withSeq _) v

theorem line_respond (n : Nat) (s : State) (v : Response) : line n (respond s v) = respond (line n s) v :=
  endLine_respond n (drawLine n s) v

theorem exec_renderLine_respond (n : BitVec 16) (s : State) (v : Response) :
    exec (.renderLine n) (respond s v) = exec (.renderLine n) s := by
  by_cases h : n.toNat = s.next
  · rw [exec_renderLine_next n (respond s v) h, line_respond, exec_renderLine_next n s h]
    rfl
  · rw [exec_renderLine_bad n (respond s v) h, exec_renderLine_bad n s h]
    rfl

/-! ## An entry at the end of `PENDING` -/

/-- The state with one more entry at the end of `PENDING` (40_memory_write_commands.md R140). -/
def State.enqueue (s : State) (e : PendingWrite) : State := s.withPending (s.pending ++ [e])

@[simp] theorem State.enqueue_next (s : State) (e : PendingWrite) : (s.enqueue e).next = s.next := rfl
@[simp] theorem State.enqueue_cfg (s : State) (e : PendingWrite) : (s.enqueue e).cfg = s.cfg := rfl
@[simp] theorem State.enqueue_scene (s : State) (e : PendingWrite) : (s.enqueue e).scene = s.scene := rfl

/-- A register write for a later scanline, with room in the queue, adds its entry (46_register_write_commands.md
R260). -/
theorem exec_regInstr_later {r : RegName} {eff : Tag} {val : BitVec 16} {s : State} (hlater : tagLater s eff)
    (hroom : queueHasRoom s) :
    exec (regInstr r eff val) s = .next (respond (s.enqueue { eff := eff, act := .reg r val }) .ok) := by
  obtain ⟨hnext, hlines⟩ := hlater
  rw [exec_regInstr, acceptWrite_queued _ _ _ hnext hlines (queueFull_of_hasRoom s hroom)]
  rfl

section
variable {n : Nat} {e : PendingWrite}

/-- An entry for another boundary stays at the end of `PENDING`, and nothing else of it is seen (R96). -/
theorem commit_enqueue_notDue (he : e.eff.toNat ≠ n) (s : State) :
    commit n (s.enqueue e) = (commit n s).enqueue e := by
  have hdue : dueActs n (s.pending ++ [e]) = dueActs n s.pending := by simp [dueActs, he]
  have hstill : stillQueued n (s.pending ++ [e]) = stillQueued n s.pending ++ [e] := by simp [stillQueued, he]
  show applyActs (dueActs n (s.pending ++ [e])) (s.withPending (stillQueued n (s.pending ++ [e]))) = _
  rw [hdue, hstill, State.enqueue, commit_pending, commit, ← applyActs_withPending]
  rfl

/-- An entry for this boundary is applied after every other one (R96). -/
theorem commit_enqueue_due (he : e.eff.toNat = n) (s : State) :
    commit n (s.enqueue e) = applyAct e.act (commit n s) := by
  have hdue : dueActs n (s.pending ++ [e]) = dueActs n s.pending ++ [e.act] := by simp [dueActs, he]
  have hstill : stillQueued n (s.pending ++ [e]) = stillQueued n s.pending := by simp [stillQueued, he]
  show applyActs (dueActs n (s.pending ++ [e])) (s.withPending (stillQueued n (s.pending ++ [e]))) = _
  rw [hdue, hstill, applyActs_append]
  rfl

theorem endLine_enqueue_notDue (he : e.eff.toNat ≠ n + 1) (s : State) :
    endLine n (s.enqueue e) = (endLine n s).enqueue e := by
  unfold endLine
  rw [State.enqueue_cfg]
  split
  · rfl
  · exact commit_enqueue_notDue he (s.withSeq _)

theorem line_enqueue_notDue (he : e.eff.toNat ≠ n + 1) (s : State) :
    line n (s.enqueue e) = (line n s).enqueue e :=
  endLine_enqueue_notDue he (drawLine n s)

theorem line_enqueue_due (he : e.eff.toNat = n + 1) {s : State} (hlines : n + 1 ≠ s.cfg.hLines) :
    line n (s.enqueue e) = applyAct e.act (line n s) := by
  rw [line_of_notLast (s := s.enqueue e) hlines, line_of_notLast hlines]
  exact commit_enqueue_due he ((drawLine n s).withSeq _)

end

/-! ## The scanlines before a boundary, and the one that ends at it -/

theorem execAll_cons {i : Instr} {s t : State} (h : exec i s = .next t) (is : List Instr) :
    execAll (i :: is) s = execAll is t := by
  simp only [execAll, h]

theorem execAll_append {is : List Instr} {s t : State} (h : execAll is s = .next t) (js : List Instr) :
    execAll (is ++ js) s = execAll js t := by
  induction is generalizing s with
  | nil =>
    obtain rfl := Host.Outcome.next.inj h
    rfl
  | cons i is ih =>
    cases hi : exec i s with
    | next u => exact (execAll_cons hi _).trans (ih ((execAll_cons hi is).symm.trans h))
    | fault r => simp only [execAll, hi, reduceCtorEq] at h
    | refused r => simp only [execAll, hi, reduceCtorEq] at h

theorem lineCommands_succ (n k : Nat) :
    lineCommands n (k + 1) = lineCommands n k ++ [.renderLine (BitVec.ofNat 16 (n + k))] := by
  induction k generalizing n with
  | zero => rfl
  | succ k ih =>
    rw [lineCommands, ih (n + 1), Nat.succ_add_eq_add_succ]
    rfl

/-- The response before the first of the scanlines shows in the outcome at most as the latest response. -/
theorem execAll_lineCommands_respond {n k : Nat} {s t : State} (h : execAll (lineCommands n k) s = .next t)
    (v : Response) : ∃ v', execAll (lineCommands n k) (respond s v) = .next { t with resp := v' } := by
  cases k with
  | zero =>
    obtain rfl := Host.Outcome.next.inj h
    exact ⟨some v, rfl⟩
  | succ k =>
    refine ⟨t.resp, ?_⟩
    rw [← h, lineCommands, execAll, execAll, exec_renderLine_respond]

/-- A command for scanline `NEXT`, named by its number, is `Line(NEXT)` (47_render_commands.md R321). -/
theorem exec_renderLine_ofNat_next {s : State} (hs : s.next < 2 ^ 16) :
    exec (.renderLine (BitVec.ofNat 16 s.next)) s =
      .next (respond (line s.next s) (.okRow (lineRow s.scene s.next))) := by
  have hn : (BitVec.ofNat 16 s.next).toNat = s.next := Nat.mod_eq_of_lt hs
  rw [exec_renderLine_next _ _ hn, hn]

/-- The scanlines before the boundary of an entry do not see it (20_memory.md R95, R96). -/
theorem execAll_lineCommands_enqueue {s : State} {e : PendingWrite} {k : Nat} (hk : s.next + k < e.eff.toNat)
    (he : e.eff.toNat < s.cfg.hLines) :
    ∃ t, execAll (lineCommands s.next k) s = .next t ∧
      execAll (lineCommands s.next k) (s.enqueue e) = .next (t.enqueue e) ∧
      t.next = s.next + k ∧ t.cfg = s.cfg := by
  induction k generalizing s with
  | zero => exact ⟨s, rfl, rfl, rfl, rfl⟩
  | succ k ih =>
    have htag := e.eff.isLt
    have hnext : (line s.next s).next = s.next + 1 := line_next _ _ (by omega)
    have hwithout := exec_renderLine_ofNat_next (s := s) (by omega)
    have hwith := exec_renderLine_ofNat_next (s := s.enqueue e) (by rw [State.enqueue_next]; omega)
    rw [State.enqueue_next, line_enqueue_notDue (by omega), State.enqueue_scene] at hwith
    obtain ⟨t, ht, hte, htnext, htcfg⟩ :=
      ih (s := respond (line s.next s) (.okRow (lineRow s.scene s.next)))
        (by rw [respond_next, hnext]; omega) (by simpa using he)
    rw [respond_next, hnext] at ht hte htnext
    refine ⟨t, (execAll_cons hwithout _).trans ht, (execAll_cons hwith _).trans hte, by omega, ?_⟩
    rw [htcfg, respond_cfg, line_cfg]

/-- The scanlines up to the boundary of an entry apply it, after whatever else they do (R96). -/
theorem execAll_lineCommands_enqueue_due {s : State} {e : PendingWrite} (hnext : s.next < e.eff.toNat)
    (he : e.eff.toNat < s.cfg.hLines) :
    ∃ u t, execAll (lineCommands s.next (e.eff.toNat - s.next)) (s.enqueue e) = .next t ∧
      t.next = e.eff.toNat ∧ t.mem = (applyAct e.act u).mem ∧ t.regs = (applyAct e.act u).regs := by
  obtain ⟨k, hk⟩ : ∃ k, e.eff.toNat = s.next + k + 1 := Nat.exists_eq_add_of_lt hnext
  obtain ⟨u, -, hu, hunext, hucfg⟩ := execAll_lineCommands_enqueue (k := k) (by omega) he
  have htag := e.eff.isLt
  have hlast := exec_renderLine_ofNat_next (s := u.enqueue e) (by rw [State.enqueue_next]; omega)
  rw [State.enqueue_next, line_enqueue_due (by omega) (by rw [hucfg]; omega)] at hlast
  have hcount : e.eff.toNat - s.next = k + 1 := by omega
  rw [hcount, lineCommands_succ, ← hunext]
  refine ⟨line u.next u, _, (execAll_append hu _).trans (execAll_cons hlast []), ?_, rfl, rfl⟩
  rw [respond_next, applyAct_next, line_next _ _ (by rw [hucfg]; omega)]
  omega

/-! ## The obligations -/

/-- Settles O25: the acts of the commit point are those of the due entries, in issue order; at the last scanline the
invariant leaves no tag for an entry of `PENDING`. -/
theorem commitPoint : Obligations.CommitPoint := by
  intro s n hinv hn
  rw [exec_renderLine_next n s hn]
  refine ⟨fun hlines => ?_, fun hlast => ?_⟩
  · exact ⟨_, applyActs (dueActs (n.toNat + 1) s.pending) s, rfl, applyActs_map_act _ _, line_next _ _ hlines.ne,
      line_pending hlines.ne, line_mem_regs hlines.ne⟩
  · rw [line_of_last hlast]
    exact ⟨_, rfl, rfl, hinv.pending_eq_nil_of_last (hn ▸ hlast), rfl, rfl⟩

/-- Settles O26, by induction on the number of scanlines. -/
theorem queuedWriteIsInvisibleBeforeItsBoundary : Obligations.QueuedWriteIsInvisibleBeforeItsBoundary := by
  intro s e k ⟨_, hlines⟩ hk
  obtain ⟨t, ht, hte, -, -⟩ := execAll_lineCommands_enqueue hk hlines
  exact ⟨t, ht, hte⟩

/-- Settles O27: before the boundary the entry is not seen; the scanline that ends at the boundary applies it last. -/
theorem queuedRegisterWriteAppliesAtItsTag : Obligations.QueuedRegisterWriteAppliesAtItsTag := by
  intro s r eff val hlater hroom
  have hissue := execAll_cons (exec_regInstr_later (r := r) (val := val) hlater hroom)
  obtain ⟨hnext, hlines⟩ := hlater
  refine ⟨fun k hk => ?_, ?_⟩
  · obtain ⟨u, hu, hue, hunext, -⟩ := execAll_lineCommands_enqueue (e := ⟨eff, .reg r val⟩) hk hlines
    obtain ⟨v, hv⟩ := execAll_lineCommands_respond hue .ok
    exact ⟨_, u, (hissue _).trans hv, hu, hunext, rfl, rfl, rfl⟩
  · obtain ⟨u, t, ht, htnext, -, htregs⟩ := execAll_lineCommands_enqueue_due (e := ⟨eff, .reg r val⟩) hnext hlines
    obtain ⟨v, hv⟩ := execAll_lineCommands_respond ht .ok
    refine ⟨_, (hissue _).trans hv, htnext, ?_⟩
    show (getReg t.regs r).toNat = _
    rw [htregs]
    exact getReg_setReg_same _ _ _

end Sys2Proof.Machine
end

section
/-! Which command can change which part of the state (20_memory.md R81, R96): what a command issues and what it commits
are the only acts it applies, and only the render commands draw. -/

namespace Sys2Proof.Machine

/-- The act a write command issues (40_memory_write_commands.md R142 to R144; R260). -/
inductive Issues : Instr → WriteAct → Prop where
  | wrVram (e : Tag) (o : BitVec 16) (d : List VWord) : Issues (.wrVram e o d) (.vram o.toNat d)
  | wrCgram (e : Tag) (j v : BitVec 16) : Issues (.wrCgram e j v) (.cgram j.toNat (v.extractLsb' 0 15))
  | wrOam (e : Tag) (j : BitVec 8) (f : OamFields) : Issues (.wrOam e j f) (.oam j.toNat (oamLowOf f) (oamHighOf f))
  | wrReg (r : RegName) (e : Tag) (v : BitVec 16) : Issues (regInstr r e v) (.reg r v)

/-- All that a command can do, as in `exec_cases`, with the act it issues or the scanlines it renders tied to the
command. -/
theorem exec_origin (i : Instr) (s : State) :
    (∃ v, exec i s = .next (respond s v)) ∨
    (∃ e a, Issues i a ∧ exec i s = .next (acceptWrite e a s)) ∨
    (∃ n v, i = .renderLine n ∧ exec i s = .next (respond (line n.toNat s) v)) ∨
    (i = .renderFrame ∧ ∃ v, exec i s = .next (respond (linesFrom 0 s.cfg.hLines s) v)) := by
  induction i using Instr.byForm with
  | nop => exact .inl ⟨_, rfl⟩
  | wrVram e o d =>
    by_cases h : o.toNat + d.length ≤ 32768
    · exact .inr (.inl ⟨e, _, .wrVram e o d, exec_wrVram_fits e o d s h⟩)
    · exact .inl ⟨_, exec_wrVram_range e o d s (Nat.lt_of_not_le h)⟩
  | wrCgram e j v =>
    by_cases h : j.toNat ≤ 255
    · exact .inr (.inl ⟨e, _, .wrCgram e j v, exec_wrCgram_fits e j v s h⟩)
    · exact .inl ⟨_, exec_wrCgram_range e j v s (Nat.lt_of_not_le h)⟩
  | wrOam e j f =>
    by_cases h : j.toNat ≤ 127
    · exact .inr (.inl ⟨e, _, .wrOam e j f, exec_wrOam_fits e j f s h⟩)
    · exact .inl ⟨_, exec_wrOam_range e j f s (Nat.lt_of_not_le h)⟩
  | wrReg r e v => exact .inr (.inl ⟨e, _, .wrReg r e v, exec_regInstr r e v s⟩)
  | renderLine n =>
    by_cases h : n.toNat = s.next
    · exact .inr (.inr (.inl ⟨n, _, rfl, exec_renderLine_next n s h⟩))
    · exact .inl ⟨_, exec_renderLine_bad n s h⟩
  | renderFrame =>
    by_cases h : midFrame s
    · exact .inl ⟨_, exec_renderFrame_mid s h⟩
    · exact .inr (.inr (.inr ⟨rfl, _, exec_renderFrame_whole s h⟩))
  | getFrame => exact .inl ⟨_, rfl⟩

/-- `f` reads a part of the state that accepting a write changes only as it applies an act of `P`. -/
structure KeptByAccepting {α : Type} (P : WriteAct → Prop) (f : State → α) : Prop where
  applyAct : ∀ a s, ¬ P a → f (applyAct a s) = f s
  withPending : ∀ (s : State) p, f (s.withPending p) = f s
  respond : ∀ s v, f (respond s v) = f s

/-- `f` reads a part of the state that a render command, too, changes only as it commits an act of `P`. -/
structure KeptByRendering {α : Type} (P : WriteAct → Prop) (f : State → α) : Prop extends KeptByAccepting P f where
  drawLine : ∀ n s, f (drawLine n s) = f s
  withSeq : ∀ (s : State) q, f (s.withSeq q) = f s

section
variable {α : Type} {P : WriteAct → Prop} {f : State → α} {i : Instr} {s t : State}

theorem KeptByAccepting.acceptWrite (hf : KeptByAccepting P f) (e : Tag) {a : WriteAct} (ha : ¬ P a) (s : State) :
    f (acceptWrite e a s) = f s := by
  obtain ⟨heq, -⟩ | ⟨heq, -⟩ | ⟨heq, -⟩ | ⟨heq, -⟩ := acceptWrite_cases e a s <;> rw [heq]
  · exact hf.respond _ _
  · rw [hf.respond, hf.applyAct _ _ ha]
  · exact hf.respond _ _
  · rw [hf.respond, hf.withPending]

/-- A command that renders nothing applies at most the act it issues. -/
theorem KeptByAccepting.exec (hf : KeptByAccepting P f) (he : exec i s = .next t) (hissued : ∀ a, Issues i a → ¬ P a)
    (hline : ∀ n, i ≠ .renderLine n) (hframe : i ≠ .renderFrame) : f t = f s := by
  obtain ⟨v, heq⟩ | ⟨e, a, ha, heq⟩ | ⟨n, v, hi, -⟩ | ⟨hi, -⟩ := exec_origin i s
  · obtain rfl := Host.Outcome.next.inj (he.symm.trans heq)
    exact hf.respond _ _
  · obtain rfl := Host.Outcome.next.inj (he.symm.trans heq)
    exact hf.acceptWrite e (hissued a ha) s
  · exact absurd hi (hline n)
  · exact absurd hi hframe

/-- Any command applies at most the act it issues and those it commits (20_memory.md R96). -/
theorem KeptByRendering.exec (hf : KeptByRendering P f) (he : exec i s = .next t) (hissued : ∀ a, Issues i a → ¬ P a)
    (hcommitted : ∀ e ∈ s.pending, commits i s e → ¬ P e.act) : f t = f s := by
  obtain ⟨v, heq⟩ | ⟨e, a, ha, heq⟩ | ⟨n, v, rfl, heq⟩ | ⟨rfl, v, heq⟩ := exec_origin i s <;>
    obtain rfl := Host.Outcome.next.inj (he.symm.trans heq)
  · exact hf.respond _ _
  · exact hf.acceptWrite e (hissued a ha) s
  · rw [hf.respond]
    exact line_keeps P f hf.applyAct hf.drawLine hf.withSeq hf.withPending _ _
      fun e hmem heff _ => hcommitted e hmem (.inl ⟨n, rfl, heff⟩)
  · rw [hf.respond]
    exact linesFrom_keeps P f hf.applyAct hf.drawLine hf.withSeq hf.withPending _ _ _ (Nat.zero_add _).le
      fun e hmem hpos hlt => hcommitted e hmem (.inr ⟨rfl, hpos, hlt⟩)

end

/-! ## The parts of the state -/

theorem keptByRendering_cfg_stream : KeptByRendering (fun _ => False) (fun s => (s.cfg, s.stream)) where
  applyAct a s _ := by simp
  withPending _ _ := rfl
  respond _ _ := rfl
  drawLine _ _ := rfl
  withSeq _ _ := rfl

theorem keptByAccepting_picture :
    KeptByAccepting (fun _ => False) (fun s => (s.fb, s.seq, s.objbuf, s.mainbuf, s.subbuf)) where
  applyAct a s _ := by simp
  withPending _ _ := rfl
  respond _ _ := rfl

theorem keptByRendering_vram : KeptByRendering (fun a => ∃ o d, a = .vram o d) (fun s => s.mem.vram) where
  applyAct a s ha := by
    cases a with
    | vram o d => exact absurd ⟨o, d, rfl⟩ ha
    | _ => rfl
  withPending _ _ := rfl
  respond _ _ := rfl
  drawLine _ _ := rfl
  withSeq _ _ := rfl

theorem keptByRendering_cgram : KeptByRendering (fun a => ∃ j v, a = .cgram j v) (fun s => s.mem.cgram) where
  applyAct a s ha := by
    cases a with
    | cgram j v => exact absurd ⟨j, v, rfl⟩ ha
    | _ => rfl
  withPending _ _ := rfl
  respond _ _ := rfl
  drawLine _ _ := rfl
  withSeq _ _ := rfl

theorem keptByRendering_oam :
    KeptByRendering (fun a => ∃ j l h, a = .oam j l h) (fun s => (s.mem.oamLow, s.mem.oamHigh)) where
  applyAct a s ha := by
    cases a with
    | oam j l h => exact absurd ⟨j, l, h, rfl⟩ ha
    | _ => rfl
  withPending _ _ := rfl
  respond _ _ := rfl
  drawLine _ _ := rfl
  withSeq _ _ := rfl

theorem keptByRendering_regs : KeptByRendering (fun a => ∃ r v, a = .reg r v) (fun s => s.regs) where
  applyAct a s ha := by
    cases a with
    | reg r v => exact absurd ⟨r, v, rfl⟩ ha
    | _ => rfl
  withPending _ _ := rfl
  respond _ _ := rfl
  drawLine _ _ := rfl
  withSeq _ _ := rfl

/-- Settles O38: each part of the state is kept by all but its own acts, and a command applies only the acts it issues
and commits. -/
theorem onlyTheNamedCommandWrites : Obligations.OnlyTheNamedCommandWrites := by
  intro i s t he
  have hport := keptByRendering_cfg_stream.exec he (fun _ _ => not_false) (fun _ _ _ => not_false)
  refine ⟨congrArg Prod.fst hport, congrArg Prod.snd hport, fun hline hframe => ?_, fun hi hq => ?_, fun hi hq => ?_,
    fun hi hq => ?_, fun hi hq => ?_⟩
  · simpa only [Prod.mk.injEq] using keptByAccepting_picture.exec he (fun _ _ => not_false) hline hframe
  · refine keptByRendering_vram.exec he ?_ fun e hmem hc ⟨o, d, heq⟩ => hq e hmem hc o d heq
    rintro _ ⟨⟩ ⟨o, d, ⟨⟩⟩
    exact hi _ _ _ rfl
  · refine keptByRendering_cgram.exec he ?_ fun e hmem hc ⟨j, v, heq⟩ => hq e hmem hc j v heq
    rintro _ ⟨⟩ ⟨j, v, ⟨⟩⟩
    exact hi _ _ _ rfl
  · refine Prod.mk.inj (keptByRendering_oam.exec he ?_ fun e hmem hc ⟨j, l, h, heq⟩ => hq e hmem hc j l h heq)
    rintro _ ⟨⟩ ⟨j, l, h, ⟨⟩⟩
    exact hi _ _ _ rfl
  · refine keptByRendering_regs.exec he ?_ fun e hmem hc ⟨r, v, heq⟩ => hq e hmem hc r v heq
    rintro _ ⟨⟩ ⟨r, v, ⟨⟩⟩
    exact hi _ _ _ rfl

end Sys2Proof.Machine
end

section
/-! The encoding (30_encoding.md R111 to R116): what the decoder answers to a header and its payload, said once, and
from it the round trips of commands, headers, payloads and bytes. -/

namespace Sys2Proof

/-! ## A word is made of its fields -/

/-- A word whose 56 low bits are zero is a header of format N (R111). -/
theorem formatN_of_word {w : Word} {op : BitVec 8} (hop : opField w = op) (hzero : w.extractLsb' 0 56 = 0#56) :
    (op ++ 0#56 : BitVec (8 + 56)) = w := by
  rw [← hop, ← hzero]
  simp (disch := rfl) only [opField, BitVec.extractLsb'_append_extractLsb'_eq_extractLsb']
  exact BitVec.extractLsb'_eq_self

/-- A word whose 40 middle bits are zero is a header of format L (R111). -/
theorem formatL_of_word {w : Word} {op : BitVec 8} (hop : opField w = op) (hzero : w.extractLsb' 16 40 = 0#40) :
    (op ++ 0#40 ++ loField w : BitVec (8 + 40 + 16)) = w := by
  rw [← hop, ← hzero]
  simp (disch := rfl) only [opField, loField, BitVec.extractLsb'_append_extractLsb'_eq_extractLsb']
  exact BitVec.extractLsb'_eq_self

/-- A word whose bits 46:32 are zero is a header of format V, C or R (R111). -/
theorem header16_of_midZero {w : Word} {op : BitVec 8} (hop : opField w = op) (hzero : midZero w = true) :
    header16 op (effField w) (hiField w) (loField w) = w := by
  rw [← hop]
  exact header16_of_word w (beq_iff_eq.1 hzero)

/-- The operand fields of a `WR_OAM` header, each where format O has it (R111). -/
def oamFieldsOf (w : Word) : OamFields where
  size := w.getLsbD 33
  vflip := w.getLsbD 32
  hflip := w.getLsbD 31
  prio := w.extractLsb' 29 2
  pal := w.extractLsb' 26 3
  name := w.getLsbD 25
  tile := w.extractLsb' 17 8
  y := w.extractLsb' 9 8
  x := w.extractLsb' 0 9

theorem oamFieldsOf_encodeOam (e : Tag) (idx : BitVec 8) (f : OamFields) : oamFieldsOf (encodeOam e idx f) = f := by
  simp [oamFieldsOf]

theorem ofBool_getLsbD {n : Nat} (v : BitVec n) (i : Nat) : BitVec.ofBool (v.getLsbD i) = v.extractLsb' i 1 := by
  ext j hj
  obtain rfl : j = 0 := by omega
  simp

/-- A word of opcode 0x03 whose must-be-zero bits are zero is the `WR_OAM` header of its own fields (R111). -/
theorem encodeOam_of_word {w : Word} (hop : opField w = 0x03#8) (hzero : w.extractLsb' 34 5 = 0#5) :
    encodeOam (effField w) (w.extractLsb' 39 8) (oamFieldsOf w) = w := by
  rw [encodeOam_eq, oamBits, ← hop, ← hzero]
  simp (disch := rfl) only [opField, effField, oamFieldsOf, ofBool_getLsbD,
    BitVec.extractLsb'_append_extractLsb'_eq_extractLsb']
  exact BitVec.extractLsb'_eq_self

/-! ## What a header decodes to -/

/-- The command that the fields of header `w` and the payload words `p` make up, one case for each opcode of R112. -/
inductive Denotes (w : Word) (p : List Word) : Instr → Prop where
  | nop (hop : opField w = 0x00#8) (hzero : w.extractLsb' 0 56 = 0#56) : Denotes w p .nop
  | wrVram (hop : opField w = 0x01#8) (hzero : midZero w = true) :
      Denotes w p (.wrVram (effField w) (hiField w) (payloadData (loField w).toNat p))
  | wrCgram (hop : opField w = 0x02#8) (hzero : midZero w = true) :
      Denotes w p (.wrCgram (effField w) (hiField w) (loField w))
  | wrOam (hop : opField w = 0x03#8) (hzero : w.extractLsb' 34 5 = 0#5) :
      Denotes w p (.wrOam (effField w) (w.extractLsb' 39 8) (oamFieldsOf w))
  | wrReg (r : RegName) (hop : opField w = 0x04#8) (hzero : midZero w = true)
      (hnum : (hiField w).toNat = r.number) : Denotes w p (regInstr r (effField w) (loField w))
  | renderLine (hop : opField w = 0x10#8) (hzero : w.extractLsb' 16 40 = 0#40) :
      Denotes w p (.renderLine (loField w))
  | renderFrame (hop : opField w = 0x11#8) (hzero : w.extractLsb' 0 56 = 0#56) : Denotes w p .renderFrame
  | getFrame (hop : opField w = 0x12#8) (hzero : w.extractLsb' 0 56 = 0#56) : Denotes w p .getFrame

theorem decodeOam_eq_ok_iff {w : Word} {i : Instr} : decodeOam w = .ok i ↔
    w.extractLsb' 34 5 = 0#5 ∧ .wrOam (effField w) (w.extractLsb' 39 8) (oamFieldsOf w) = i := by
  unfold decodeOam
  split <;> simp_all [oamFieldsOf]

theorem ofNumber_eq_some_iff {n : Nat} {r : RegName} : RegName.ofNumber n = some r ↔ n = r.number :=
  ⟨fun h => (Machine.number_of_ofNumber n r h).symm, fun h => h ▸ Machine.ofNumber_number r⟩

theorem decodeReg_eq_ok_iff {w : Word} {i : Instr} : decodeReg w = .ok i ↔
    midZero w = true ∧ ∃ r : RegName, (hiField w).toNat = r.number ∧ regInstr r (effField w) (loField w) = i := by
  simp only [← ofNumber_eq_some_iff]
  unfold decodeReg
  split
  · split <;> simp_all
  · simp_all

theorem decodeCommand_eq_ok_iff {w : Word} {p : List Word} {i : Instr} :
    decodeCommand w p = .ok i ↔ Denotes w p i := by
  constructor
  · intro h
    unfold decodeCommand at h
    split at h
    case h_4 hop =>
      obtain ⟨hzero, rfl⟩ := decodeOam_eq_ok_iff.1 h
      exact .wrOam (BitVec.eq_of_toNat_eq hop) hzero
    case h_5 hop =>
      obtain ⟨hzero, r, hnum, rfl⟩ := decodeReg_eq_ok_iff.1 h
      exact .wrReg r (BitVec.eq_of_toNat_eq hop) hzero hnum
    case h_9 => cases h
    -- The six opcodes left accept exactly the headers whose must-be-zero bits are zero.
    all_goals
      rename_i hop
      split at h
      next hzero =>
        cases h
        constructor
        · exact BitVec.eq_of_toNat_eq hop
        · exact hzero
      next => cases h
  · intro h
    cases h with
    | wrOam hop hzero => simpa [decodeCommand, hop] using decodeOam_eq_ok_iff.2 ⟨hzero, rfl⟩
    | wrReg r hop hzero hnum => simpa [decodeCommand, hop] using decodeReg_eq_ok_iff.2 ⟨hzero, r, hnum, rfl⟩
    | _ hop hzero => simp [decodeCommand, hop, hzero]

/-! ## What stands next in a stream -/

theorem decode_of_missing {w : Word} {ws : List Word} (h : ws.length < payloadCount w) :
    decode (w :: ws) = .waiting := by
  simp only [decode, if_pos h]

theorem decode_of_ok {w : Word} {ws : List Word} {i : Instr} (h : payloadCount w ≤ ws.length)
    (hi : decodeCommand w (ws.take (payloadCount w)) = .ok i) :
    decode (w :: ws) = .command i (ws.drop (payloadCount w)) := by
  simp only [decode, if_neg h.not_gt, hi]

theorem decode_of_error {w : Word} {ws : List Word} {e : DecodeError} (h : payloadCount w ≤ ws.length)
    (he : decodeCommand w (ws.take (payloadCount w)) = .error e) :
    decode (w :: ws) = .illegal e (ws.drop (payloadCount w)) := by
  simp only [decode, if_neg h.not_gt, he]

/-- A whole command at the port: its payload is there, its header denotes it, and the rest is what follows (R116). -/
theorem decode_eq_command_iff {w : Word} {ws : List Word} {i : Instr} {rest : List Word} :
    decode (w :: ws) = .command i rest ↔
      payloadCount w ≤ ws.length ∧ Denotes w (ws.take (payloadCount w)) i ∧ ws.drop (payloadCount w) = rest := by
  rw [← decodeCommand_eq_ok_iff]
  constructor
  · intro h
    rcases Nat.lt_or_ge ws.length (payloadCount w) with hlen | hlen
    · rw [decode_of_missing hlen] at h
      cases h
    · cases hc : decodeCommand w (ws.take (payloadCount w)) with
      | error e =>
        rw [decode_of_error hlen hc] at h
        cases h
      | ok j =>
        rw [decode_of_ok hlen hc] at h
        cases h
        exact ⟨hlen, rfl, rfl⟩
  · rintro ⟨hlen, hc, rfl⟩
    exact decode_of_ok hlen hc

/-! ## Decoding what was encoded -/

/-- The words of a well-formed command are a header and the payload words that header calls for (R111, R116). -/
theorem headerShape : ∀ i, Laws.HeaderShape.Statement i :=
  Instr.byForm Laws.HeaderShape.nop Laws.HeaderShape.wrVram Laws.HeaderShape.wrCgram Laws.HeaderShape.wrOam
    (fun r e v _ => by
      obtain ⟨w, p, hencode, hop, hp⟩ := Laws.HeaderShape.regHeader r e v
      exact ⟨w, p, (encode_regInstr r e v).trans hencode, hop.trans (by cases r <;> rfl), hp⟩)
    Laws.HeaderShape.renderLine Laws.HeaderShape.renderFrame Laws.HeaderShape.getFrame

theorem toNat_ofNat_number (r : RegName) : (BitVec.ofNat 16 r.number).toNat = r.number := by
  have := Machine.number_lt r
  rw [BitVec.toNat_ofNat, Nat.mod_eq_of_lt (by omega)]

theorem denotes_header16_wrVram (e : Tag) (o : BitVec 16) {ds : List VWord} (hlen : ds.length < 65536) :
    Denotes (header16 0x01#8 e o (BitVec.ofNat 16 ds.length)) (packPayload ds) (.wrVram e o ds) := by
  have hdata : payloadData (BitVec.ofNat 16 ds.length).toNat (packPayload ds) = ds := by
    rw [BitVec.toNat_ofNat, Nat.mod_eq_of_lt hlen, payloadData, take_lanes_packPayload]
  have h := Denotes.wrVram (p := packPayload ds) (opField_header16 0x01#8 e o (BitVec.ofNat 16 ds.length))
    (midZero_header16 _ _ _ _)
  rwa [effField_header16, hiField_header16, loField_header16, hdata] at h

theorem denotes_header16_wrCgram (e : Tag) (j v : BitVec 16) (p : List Word) :
    Denotes (header16 0x02#8 e j v) p (.wrCgram e j v) := by
  simpa using Denotes.wrCgram (p := p) (opField_header16 0x02#8 e j v) (midZero_header16 _ _ _ _)

theorem denotes_encodeOam (e : Tag) (j : BitVec 8) (f : OamFields) (p : List Word) :
    Denotes (encodeOam e j f) p (.wrOam e j f) := by
  have h := Denotes.wrOam (p := p) (encodeOam_op e j f) (encodeOam_zero e j f)
  rwa [effField, encodeOam_eff, encodeOam_idx, oamFieldsOf_encodeOam] at h

theorem denotes_header16_wrReg (r : RegName) (e : Tag) (v : BitVec 16) (p : List Word) :
    Denotes (header16 0x04#8 e (BitVec.ofNat 16 r.number) v) p (regInstr r e v) := by
  simpa using Denotes.wrReg (p := p) r (opField_header16 0x04#8 e (BitVec.ofNat 16 r.number) v)
    (midZero_header16 _ _ _ _) (by rw [hiField_header16, toNat_ofNat_number])

theorem denotes_line (l : BitVec 16) (p : List Word) :
    Denotes (0x10#8 ++ 0#40 ++ l : BitVec (8 + 40 + 16)) p (.renderLine l) := by
  have h := Denotes.renderLine (p := p) (opField_line 0x10#8 l) (zero_line 0x10#8 l)
  rwa [loField_line] at h

/-- A well-formed command is denoted by the header and the payload it encodes to (R111, R112, R116). -/
theorem denotes_encode : ∀ i : Instr, i.wellFormed = true → ∃ w p, encode i = w :: p ∧ Denotes w p i :=
  Instr.byForm (fun _ => ⟨_, [], rfl, .nop (by decide) (by decide)⟩)
    (fun e o _ hwf => ⟨_, _, rfl, denotes_header16_wrVram e o (of_decide_eq_true hwf)⟩)
    (fun e j v _ => ⟨_, [], rfl, denotes_header16_wrCgram e j v []⟩)
    (fun e j f _ => ⟨_, [], rfl, denotes_encodeOam e j f []⟩)
    (fun r e v _ => ⟨_, [], encode_regInstr r e v, denotes_header16_wrReg r e v []⟩)
    (fun l _ => ⟨_, [], rfl, denotes_line l []⟩)
    (fun _ => ⟨_, [], rfl, .renderFrame (by decide) (by decide)⟩)
    (fun _ => ⟨_, [], rfl, .getFrame (by decide) (by decide)⟩)

/-- Settles O10: the header calls for exactly the payload encoded, and with it denotes the command. -/
theorem decodeOfEncodeIsTheCommand : Obligations.DecodeOfEncodeIsTheCommand := by
  intro i rest hwf
  obtain ⟨w, p, hencode, -, hcount⟩ := headerShape i hwf
  obtain ⟨w', p', hencode', hdenotes⟩ := denotes_encode i hwf
  obtain ⟨rfl, rfl⟩ := List.cons.inj (hencode.symm.trans hencode')
  rw [hencode, List.cons_append, decode_eq_command_iff, hcount, List.take_left, List.drop_left, List.length_append]
  exact ⟨Nat.le_add_right _ _, hdenotes, rfl⟩

theorem decode_of_encode_eq {i : Instr} {ws : List Word} (hwf : i.wellFormed = true) (h : encode i = ws) :
    decode ws = .command i [] := by
  simpa [h] using decodeOfEncodeIsTheCommand i [] hwf

/-- Settles O9: each command encodes to the words the spec gives, so the decoder reads it back from them. -/
theorem specExampleWords : Obligations.SpecExampleWords := by
  refine ⟨decode_of_encode_eq rfl ?bgmode, ?bgmode, decode_of_encode_eq rfl ?cgram, ?cgram,
    decode_of_encode_eq rfl ?bright, ?bright, decode_of_encode_eq rfl ?line, ?line,
    decode_of_encode_eq rfl ?frame, ?frame, decode_of_encode_eq rfl ?oam, ?oam,
    decode_of_encode_eq rfl ?vram, ?vram⟩ <;> decide

/-! ## Encoding what was decoded -/

theorem length_payloadData {len : Nat} {p : List Word} (h : (len + 3) / 4 ≤ p.length) :
    (payloadData len p).length = len := by
  rw [payloadData, List.length_take, length_lanes]
  omega

/-- Data word `k` of `WR_VRAM` is lane `k mod 4` of payload word `k div 4` (R116, R142). -/
theorem getElem?_payloadData {len k : Nat} (p : List Word) (hk : k < len) :
    (payloadData len p)[k]? = (p[k / 4]?).map (fun q => q.extractLsb' (16 * (k % 4)) 16) := by
  rw [payloadData, List.getElem?_take_of_lt hk, getElem?_lanes]

theorem payloadCount_of_wrVram {w : Word} (hop : opField w = 0x01#8) :
    payloadCount w = ((loField w).toNat + 3) / 4 := if_pos hop

/-- A header with its payload is the header of the command it denotes. -/
theorem Denotes.head?_encode {w : Word} {p : List Word} {i : Instr} (h : Denotes w p i)
    (hp : payloadCount w ≤ p.length) : i.wellFormed = true ∧ (encode i).head? = some w := by
  cases h with
  | nop hop hzero => exact ⟨rfl, congrArg some (formatN_of_word hop hzero)⟩
  | renderFrame hop hzero => exact ⟨rfl, congrArg some (formatN_of_word hop hzero)⟩
  | getFrame hop hzero => exact ⟨rfl, congrArg some (formatN_of_word hop hzero)⟩
  | renderLine hop hzero => exact ⟨rfl, congrArg some (formatL_of_word hop hzero)⟩
  | wrCgram hop hzero => exact ⟨rfl, congrArg some (header16_of_midZero hop hzero)⟩
  | wrOam hop hzero => exact ⟨rfl, congrArg some (encodeOam_of_word hop hzero)⟩
  | wrReg r hop hzero hnum =>
    refine ⟨wellFormed_regInstr _ _ _, ?_⟩
    rw [encode_regInstr, encodeReg, ← hnum, BitVec.ofNat_toNat, BitVec.setWidth_eq]
    exact congrArg some (header16_of_midZero hop hzero)
  | wrVram hop hzero =>
    have hlen := length_payloadData (payloadCount_of_wrVram hop ▸ hp)
    refine ⟨?_, congrArg some ?_⟩
    · rw [Instr.wellFormed, hlen]
      exact decide_eq_true (loField w).isLt
    · rw [hlen, BitVec.ofNat_toNat, BitVec.setWidth_eq]
      exact header16_of_midZero hop hzero

/-- Every command but `WR_VRAM` is one word (R116). -/
theorem length_encode_of_ne_wrVram : ∀ i : Instr, (∀ e o d, i ≠ .wrVram e o d) → (encode i).length = 1 :=
  Instr.byForm (fun _ => rfl) (fun e o d h => absurd rfl (h e o d)) (fun _ _ _ _ => rfl) (fun _ _ _ _ => rfl)
    (fun r e v _ => by rw [encode_regInstr]; rfl) (fun _ _ => rfl) (fun _ => rfl) (fun _ => rfl)

/-- Settles O11: the header is that of the command it denotes, and a command of one word has no payload. -/
theorem encodeOfDecodeIsTheHeader : Obligations.EncodeOfDecodeIsTheHeader := by
  intro w ws i rest h
  obtain ⟨hlen, hdenotes, rfl⟩ := decode_eq_command_iff.1 h
  obtain ⟨hwf, hhead⟩ := hdenotes.head?_encode (by simp [hlen])
  refine ⟨hwf, hhead, rfl, fun hne => ?_⟩
  obtain ⟨v, p, hencode, -, hp⟩ := headerShape i hwf
  obtain rfl : v = w := by simpa [hencode] using hhead
  obtain rfl : p = [] := by simpa [hencode] using length_encode_of_ne_wrVram i hne
  exact ⟨hencode, by rw [hp]; rfl⟩

/-! ## Payload and bytes -/

/-- Settles O13: the decoder waits for the payload, takes it whole, and reads the data from its lanes. -/
theorem payloadOfWrVram : Obligations.PayloadOfWrVram := by
  intro w ws p hp
  obtain rfl : p = payloadCount w := hp
  refine ⟨decode_of_missing, fun hlen => ?_, fun hlen hop hzero => ⟨_, decode_eq_command_iff.2
    ⟨hlen, .wrVram hop (beq_iff_eq.2 hzero), rfl⟩, ?_⟩⟩
  · cases hc : decodeCommand w (ws.take (payloadCount w)) with
    | ok i => exact .inl ⟨i, decode_of_ok hlen hc⟩
    | error e => exact .inr ⟨e, decode_of_error hlen hc⟩
  · have hcount := payloadCount_of_wrVram hop
    have hdata := length_payloadData (len := (loField w).toNat) (p := ws.take (payloadCount w))
      (by rw [← hcount, List.length_take]; omega)
    refine ⟨hdata, fun k hk => ?_⟩
    rw [hdata] at hk
    rw [getElem?_payloadData _ hk, List.getElem?_take_of_lt (by omega)]

theorem bytesOfWord_getElem? (w : Word) {k : Nat} (hk : k < 8) :
    (bytesOfWord w)[k]? = some (w.extractLsb' (8 * k) 8) := by
  interval_cases k <;> rfl

/-- The bytes of a stream of words read back as the words (R113). -/
theorem wordsOfBytes_bytesOfWords (ws : List Word) : wordsOfBytes (bytesOfWords ws) = ws := by
  induction ws with
  | nil => rfl
  | cons w ws ih => exact congrArg₂ List.cons (word_of_its_bytes w) ih

/-- Settles O12: byte by byte, and word by word. -/
theorem streamByteOrder : Obligations.StreamByteOrder :=
  ⟨fun w _ => bytesOfWord_getElem? w, fun _ => rfl, wordsOfBytes_bytesOfWords⟩

end Sys2Proof
end

section
/-! Tile pixels and hidden sprites (30_encoding.md R119, R125): the bits of a pixel value are its plane bits, and the
sprite that `OAM_HIDE` writes lies below the picture. -/

namespace Sys2Proof.Machine

/-! ## Plane bits -/

theorem bitNat_eq_toNat {n : Nat} (v : BitVec n) (i : Nat) : bitNat v i = (v.getLsbD i).toNat := by
  cases h : v.getLsbD i <;> simp [bitNat, h]

/-- The first `k + 1` plane pairs: the bits of pair `k` above the value of the first `k` (R125). -/
theorem planeSum_succ (m : Memory) (t c r k : Nat) :
    planeSum m t c r (k + 1) = 2 ^ (2 * k) *
      (2 * ((readVram m ((t + 8 * k + r) % vramSize)).getLsbD (15 - c)).toNat +
        ((readVram m ((t + 8 * k + r) % vramSize)).getLsbD (7 - c)).toNat) + planeSum m t c r k := by
  rw [planeSum, planePair, bitNat_eq_toNat, bitNat_eq_toNat]
  ring

theorem testBit_two_bits (a b : Bool) :
    (2 * a.toNat + b.toNat).testBit 0 = b ∧ (2 * a.toNat + b.toNat).testBit 1 = a := by
  cases a <;> cases b <;> decide

/-- Bits `2k` and `2k + 1` of a sum of plane pairs are those of pair `k` (R125). -/
theorem testBit_planeSum (m : Memory) (t c r : Nat) {k n : Nat} (hk : k < n) :
    (planeSum m t c r n).testBit (2 * k) = (readVram m ((t + 8 * k + r) % vramSize)).getLsbD (7 - c) ∧
      (planeSum m t c r n).testBit (2 * k + 1) = (readVram m ((t + 8 * k + r) % vramSize)).getLsbD (15 - c) := by
  induction n with
  | zero => omega
  | succ n ih =>
    rw [planeSum_succ, Nat.testBit_two_pow_mul_add _ (planeSum_lt m t c r n),
      Nat.testBit_two_pow_mul_add _ (planeSum_lt m t c r n)]
    obtain hlt | rfl := Nat.lt_succ_iff_lt_or_eq.1 hk
    · rw [if_pos (by omega), if_pos (by omega)]
      exact ih hlt
    · rw [if_neg (by omega), if_neg (by omega), Nat.sub_self, Nat.add_sub_cancel_left]
      exact testBit_two_bits _ _

/-- A pixel of a 2-bit tile is one plane pair (R125). -/
theorem tilePixel_two (m : Memory) (t c r : Nat) :
    tilePixel m t 2 c r = planePair (readVram m ((t + r) % vramSize)) c 0 := by
  simp [tilePixel, planeSum]

/-- Settles O57: the bits of a sum of plane pairs, and for the example the eight pairs of the one word. -/
theorem tilePixelIsItsPlaneBits : Obligations.TilePixelIsItsPlaneBits := by
  refine ⟨fun m t bpp c r hbpp _ _ => ⟨tilePixel_lt m t bpp c r (by omega), fun k => testBit_planeSum m t c r⟩,
    fun m t r h => ?_⟩
  simp only [tilePixel_two, h]
  decide

/-! ## Hidden sprites -/

/-- `OAM_HIDE` tagged `NEXT` writes the hidden sprite at once (R119, R140, R144). -/
theorem exec_oamHide_now {s : State} {idx : BitVec 8} {eff : Tag} (hnow : tagNow s eff) (hidx : idx.toNat ≤ 127) :
    exec (oamHide idx eff) s =
      .next (respond (s.withMem (writeOam s.mem idx.toNat (oamLowOf hiddenSprite) (oamHighOf hiddenSprite))) .ok) := by
  obtain ⟨heff, hlines⟩ := hnow
  rw [oamHide, exec_wrOam_fits _ _ _ _ hidx, acceptWrite_now _ _ _ heff hlines, applyAct_oam]

/-- A sprite at y = 240 that is at most 16 high covers no scanline below 224 (R184). -/
theorem spriteInRange_eq_false_of_y {sc : Scene} {e : Sprite} {y : Nat} (hy : e.low.y = 240)
    (hdim : (e.dim sc).h ≤ 16) (hline : y < 224) : spriteInRange sc e y = false := by
  have hrow : spriteRow e y = y + 16 := by
    have : zext e.low.y = 240 := by rw [hy]; rfl
    rw [spriteRow, this]
    omega
  simp only [spriteInRange, hrow, Bool.and_eq_false_iff, decide_eq_false_iff_not]
  exact .inl (by omega)

/-- Settles O51: the entry reads as the hidden sprite, whose 16 rows at most begin at 240. -/
theorem hiddenSpriteIsNeverShown : Obligations.HiddenSpriteIsNeverShown := by
  intro s idx eff hnow hidx hsmall
  refine ⟨_, exec_oamHide_now hnow hidx, fun y hline => spriteInRange_eq_false_of_y ?_ ?_ hline⟩
  · simp [sprite, oamLowOf, hiddenSprite]
  · simpa [Sprite.dim, sprite, oamHighOf, hiddenSprite] using hsmall

end Sys2Proof.Machine
end

section
/-! `NOP` and the memory write commands (40_memory_write_commands.md R140 to R144): a write inside its space does what
`AcceptWrite` does with its tag and the queue, and a write that is applied changes the cells it names and no other. -/

namespace Sys2Proof.Machine

/-! ## Accepting a write, by the kind of its tag -/

section
variable {s : State} {eff : Tag}

theorem acceptWrite_of_tagNow (a : WriteAct) (hnow : tagNow s eff) :
    acceptWrite eff a s = respond (applyAct a s) .ok := by
  obtain ⟨heff, hlines⟩ := hnow
  exact acceptWrite_now eff a s heff hlines

theorem acceptWrite_of_queueIsFull (a : WriteAct) (hlater : tagLater s eff) (hfull : queueIsFull s) :
    acceptWrite eff a s = reject s .eFull := by
  obtain ⟨hnext, hlines⟩ := hlater
  exact acceptWrite_full eff a s hnext hlines (queueFull_of_isFull s hfull)

theorem acceptWrite_of_queueHasRoom (a : WriteAct) (hlater : tagLater s eff) (hroom : queueHasRoom s) :
    acceptWrite eff a s = respond (s.enqueue { eff := eff, act := a }) .ok := by
  obtain ⟨hnext, hlines⟩ := hlater
  exact acceptWrite_queued eff a s hnext hlines (queueFull_of_hasRoom s hroom)

/-- The four outcomes, past its range check, of a command that is `AcceptWrite` wherever it `fits` (R140). -/
theorem exec_outcomes_of_acceptWrite {i : Instr} {a : WriteAct} {fits : Prop}
    (hexec : fits → exec i s = .next (acceptWrite eff a s)) :
    (fits → ¬ tagLegal s eff → exec i s = .next (reject s .eTag)) ∧
    (fits → tagNow s eff → exec i s = .next (respond (applyAct a s) .ok)) ∧
    (fits → tagLater s eff → queueIsFull s → exec i s = .next (reject s .eFull)) ∧
    (fits → tagLater s eff → queueHasRoom s →
      exec i s = .next (respond (s.enqueue { eff := eff, act := a }) .ok)) := by
  refine ⟨fun hfits hbad => ?_, fun hfits hnow => ?_, fun hfits hlater hfull => ?_,
    fun hfits hlater hroom => ?_⟩ <;> rw [hexec hfits]
  · rw [acceptWrite_badTag eff a s hbad]
  · rw [acceptWrite_of_tagNow a hnow]
  · rw [acceptWrite_of_queueIsFull a hlater hfull]
  · rw [acceptWrite_of_queueHasRoom a hlater hroom]

end

/-! ## What the three writes leave in memory -/

theorem readVram_writeVram_of_getElem? (m : Memory) (off : Nat) {data : List VWord} {k : Nat} {v : VWord}
    (hk : data[k]? = some v) : readVram (writeVram m off data) (off + k) = v := by
  obtain ⟨hlen, rfl⟩ := List.getElem?_eq_some_iff.1 hk
  exact readVram_writeVram_inside m off data k hlen

/-- Bit 8 of a 9-bit x in front of its eight low bits is that x (10_state.md R26). -/
theorem ofBool_getLsbD_append_extractLsb' (x : BitVec 9) :
    (BitVec.ofBool (x.getLsbD 8) ++ x.extractLsb' 0 8 : BitVec (1 + 8)) = x := by
  rw [ofBool_getLsbD, BitVec.extractLsb'_append_extractLsb'_eq_extractLsb' (show 8 = 0 + 8 from rfl)]
  exact BitVec.extractLsb'_eq_self

/-- The x that `WR_OAM` splits over the two tables reads back as the signed 9-bit x (R144). -/
theorem sprite_x_writeOam (m : Memory) (i : Nat) (f : OamFields) :
    (sprite (writeOam m i (oamLowOf f) (oamHighOf f)) i).x = f.x.toInt := by
  rw [Sprite.x, sprite, readLow_writeOam_same, readHigh_writeOam_same]
  exact congrArg BitVec.toInt (ofBool_getLsbD_append_extractLsb' f.x)

/-! ## The write commands -/

/-- Settles O15: the range check, then the outcomes of `AcceptWrite`; the bulk write puts each data word in its place
and leaves the words outside the block. -/
theorem wrVramEffects : Obligations.WrVramEffects := by
  intro eff off data s
  obtain ⟨hbad, hnow, hfull, hroom⟩ := exec_outcomes_of_acceptWrite (exec_wrVram_fits eff off data s)
  refine ⟨exec_wrVram_range eff off data s, hbad, fun hfits htag => ?_, hfull, hroom⟩
  exact ⟨writeVram s.mem off.toNat data, hnow hfits htag, fun k v => readVram_writeVram_of_getElem? _ _,
    readVram_writeVram_other _ _ _, rfl, rfl, rfl⟩

/-- Settles O16: the range check, then the outcomes of `AcceptWrite`; the entry reads as `val` without its bit 15. -/
theorem wrCgramEffects : Obligations.WrCgramEffects := by
  intro eff idx val s
  obtain ⟨hbad, hnow, hfull, hroom⟩ := exec_outcomes_of_acceptWrite (exec_wrCgram_fits eff idx val s)
  refine ⟨exec_wrCgram_range eff idx val s, hbad, fun hfits htag => ?_, hfull, hroom⟩
  exact ⟨writeCgram s.mem idx.toNat (val.extractLsb' 0 15), hnow hfits htag, readCgram_writeCgram_same _ _ _,
    fun j => readCgram_writeCgram_other _ _ j _, rfl, rfl, rfl⟩

/-- Settles O17: the range check, then the outcomes of `AcceptWrite`; both tables of the entry are written, and x is
joined again from its two parts. -/
theorem wrOamEffects : Obligations.WrOamEffects := by
  rintro eff idx f low high s rfl rfl
  obtain ⟨hbad, hnow, hfull, hroom⟩ := exec_outcomes_of_acceptWrite (exec_wrOam_fits eff idx f s)
  refine ⟨exec_wrOam_range eff idx f s, hbad, fun hfits htag => ?_, hfull, hroom⟩
  exact ⟨writeOam s.mem idx.toNat (oamLowOf f) (oamHighOf f), hnow hfits htag, readLow_writeOam_same _ _ _ _,
    readHigh_writeOam_same _ _ _ _, sprite_x_writeOam _ _ f,
    fun j hj => ⟨readLow_writeOam_other _ _ j _ _ hj, readHigh_writeOam_other _ _ j _ _ hj⟩, rfl, rfl⟩

/-! ## `NOP` -/

/-- A header of opcode 0 has no payload (30_encoding.md R116). -/
theorem payloadCount_of_nop {w : Word} (hop : opField w = 0x00#8) : payloadCount w = 0 :=
  if_neg (by rw [hop]; decide)

/-- A header of opcode 0 with a bit set below the opcode is `E_DECODE` (60_exceptions.md R343). -/
theorem decode_of_nop_of_ne_zero {w : Word} (ws : List Word) (hop : opField w = 0x00#8)
    (hne : w.extractLsb' 0 56 ≠ 0#56) : decode (w :: ws) = .illegal .mustBeZero ws := by
  have hcount := payloadCount_of_nop hop
  have herror : decodeCommand w (ws.take (payloadCount w)) = .error .mustBeZero := by
    simp [decodeCommand, hop, hne]
  rw [decode_of_error (by omega) herror, hcount, List.drop_zero]

/-- Settles O14: `NOP` only responds, the all-zero word denotes it, and its other 56 bits must be zero. -/
theorem nopCompletes : Obligations.NopCompletes :=
  ⟨fun _ => rfl, fun _ => decode_eq_command_iff.2 ⟨Nat.zero_le _, .nop rfl rfl, rfl⟩,
    fun _ ws hop hne => ⟨.mustBeZero, decode_of_nop_of_ne_zero ws hop hne⟩⟩

end Sys2Proof.Machine
end

section
/-! Background layers that are absent, and mosaic (41_background_renderer.md R153, R156, R157): modes 5 and 6 have no
background layer, and the positions of a mosaic block sample one position. -/

namespace Sys2Proof.Machine

/-! ## Modes without a background -/

/-- Modes 5 and 6 have no background layer under any MODEDEF (R153). -/
theorem layerPixel_of_fallbackMode {sc : Scene} (hmode : bgMode sc.regs = 5 ∨ bgMode sc.regs = 6) (l : Bg) (x : Int)
    (y : Nat) : layerPixel sc l x y = none := by
  obtain hnone | ⟨hm7, -⟩ | ⟨htile, -⟩ := layerPixel_cases sc l x y
  · exact hnone
  · omega
  · omega

theorem bgOffers_of_layerPixel_eq_none {sc : Scene} {l : Bg} {x : Int} {y : Nat} (h : layerPixel sc l x y = none)
    (s : Screen) : bgOffers sc s x y l = [] := by
  simp only [bgOffers, h, Option.map_none, Option.toList_none, ite_self]

/-- Settles O46: no layer has a pixel, so only the sprites' offer is left of the five. -/
theorem fallbackModesHaveNoBackground : Obligations.FallbackModesHaveNoBackground := by
  intro sc hmode
  have hnone := layerPixel_of_fallbackMode hmode
  refine ⟨hnone, fun s o x y => ?_⟩
  simp only [offersAt, bgOffers_of_layerPixel_eq_none (hnone _ x y), List.nil_append]

/-! ## Mosaic -/

/-- The columns of a block all sample its first one (R156). -/
theorem mosaicX_congr {g : Regs} {l : Bg} {x x' : Int} (h : x / (mosaicN g l : Int) = x' / (mosaicN g l : Int)) :
    mosaicX g l x = mosaicX g l x' := by
  have hx := Int.mul_ediv_add_emod x (mosaicN g l)
  have hx' := Int.mul_ediv_add_emod x' (mosaicN g l)
  rw [h] at hx
  unfold mosaicX
  omega

/-- From the phase on, a scanline samples the first one of its block (R157). -/
theorem mosaicY_of_phase_le {g : Regs} {l : Bg} {y : Nat} (h : mosaicPhase g ≤ y) :
    mosaicY g l y = mosaicPhase g + mosaicN g l * ((y - mosaicPhase g) / mosaicN g l) := by
  have hdiv := Nat.div_add_mod (y - mosaicPhase g) (mosaicN g l)
  unfold mosaicY
  split
  case isTrue hlast =>
    have hsize : mosaicN g l = 1 := by omega
    rw [hsize, Nat.div_one]
    omega
  case isFalse => omega

theorem mosaicY_congr {g : Regs} {l : Bg} {y y' : Nat} (hy : mosaicPhase g ≤ y) (hy' : mosaicPhase g ≤ y')
    (h : (y - mosaicPhase g) / mosaicN g l = (y' - mosaicPhase g) / mosaicN g l) : mosaicY g l y = mosaicY g l y' := by
  rw [mosaicY_of_phase_le hy, mosaicY_of_phase_le hy', h]

/-- In mode 7 both layers show what was fetched for the position, under BG1's mosaic (43_mode7.md R203). -/
theorem m7Pixel_congr {sc : Scene} {x x' : Int} {y y' : Nat} (h : m7Sample sc x y = m7Sample sc x' y') (k : Bg) :
    m7Pixel sc k x y = m7Pixel sc k x' y' := by
  cases k <;> simp only [m7Pixel, h]

/-- Settles O55: a pixel depends on its position only through the mosaic's sample position. -/
theorem mosaicBlocksShareOnePixel : Obligations.MosaicBlocksShareOnePixel := by
  rintro sc l x x' y y' n ph rfl rfl hcol hy hy' hrow
  have hsx : mosaicX sc.regs l x = mosaicX sc.regs l x' := mosaicX_congr hcol
  have hsy : mosaicY sc.regs l y = mosaicY sc.regs l y' := mosaicY_congr hy hy' hrow
  refine ⟨fun bpp => by simp only [bgPixel, hsx, hsy], ?_⟩
  rintro rfl
  exact m7Pixel_congr (by simp only [m7Sample, hsx, hsy])

end Sys2Proof.Machine
end

section
/-! The scrolled position (41_background_renderer.md R158, R168, R169): what per-tile offset makes of it, said once, and
scroll values that agree modulo the tilemap's size in pixels. -/

namespace Sys2Proof.Machine

/-! ## Per-tile offset -/

/-- The column whose override words count (R168): tiles from the scroll's own tile on. -/
def optColumn (h lx : Int) : Int := lx / 8 - h / 8

/-- The bit of an override word that makes it valid for BG1 or BG2 (R168). -/
def optValidBit (l : Bg) : Nat := if l = .bg1 then 13 else 14

theorem optColumn_eq (h lx : Int) : ((lx - lx % 8) - (h - h % 8)) / 8 = optColumn h lx := by
  unfold optColumn
  omega

section
variable {sc : Scene} {l : Bg} {lx ly sx sy col : Int}

/-- Up to the leftmost column nothing is overridden (R168). -/
theorem opt_of_column_le (hcol : optColumn (zext (bgHofs sc.regs l)) lx = col) (hle : col ≤ 0) :
    opt sc l lx ly sy = (lx, ly) := by
  simp only [opt, optColumn_eq, hcol, if_pos hle]

/-- Past the leftmost column each axis is overridden where its word is valid (R168). -/
theorem opt_of_column_pos {hv vv : VWord} (hcol : optColumn (zext (bgHofs sc.regs l)) lx = col) (hpos : 0 < col)
    (hwords : optWords sc col = (hv, vv)) :
    opt sc l lx ly sy =
      (if hv.getLsbD (optValidBit l) then (slice hv 3 7 : Int) * 8 + col * 8 + lx % 8 else lx,
       if vv.getLsbD (optValidBit l) then (slice vv 0 10 : Int) + sy else ly) := by
  simp only [opt, optColumn_eq, hcol, if_neg (Int.not_le.2 hpos), hwords, Nat.cast_mul, Nat.cast_ofNat]
  rfl

/-- Without per-tile offset the position is screen plus scroll (R154, R158). -/
theorem scrolled_of_not_optApplies (h : optApplies sc l = false) :
    scrolled sc l sx sy = (sx + zext (bgHofs sc.regs l), sy + zext (bgVofs sc.regs l)) := by
  simp [scrolled, h]

theorem scrolled_of_optApplies (h : optApplies sc l = true) :
    scrolled sc l sx sy = opt sc l (sx + zext (bgHofs sc.regs l)) (sy + zext (bgVofs sc.regs l)) sy := by
  simp [scrolled, h]

end

/-- Without per-tile offset, or up to the leftmost column, the position is screen plus scroll (R154, R168). -/
theorem scrolled_of_not_overridden {sc : Scene} {l : Bg} {sx sy : Int}
    (h : ¬ (optApplies sc l = true ∧ 0 < optColumn (zext (bgHofs sc.regs l)) (sx + zext (bgHofs sc.regs l)))) :
    scrolled sc l sx sy = (sx + zext (bgHofs sc.regs l), sy + zext (bgVofs sc.regs l)) := by
  cases happlies : optApplies sc l with
  | false => exact scrolled_of_not_optApplies happlies
  | true =>
    rw [scrolled_of_optApplies happlies]
    exact opt_of_column_le rfl (Int.not_lt.1 fun hpos => h ⟨happlies, hpos⟩)

/-! ## The override words -/

/-- Per-tile offset applies to BG1 and BG2 where the mode's row says so (R152, R154). -/
theorem optApplies_iff (sc : Scene) (l : Bg) :
    optApplies sc l = true ↔
      (∃ row, sc.cfg.modeDef[bgMode sc.regs]? = some row ∧ row.opt = true) ∧ (l = .bg1 ∨ l = .bg2) := by
  cases hrow : sc.cfg.modeDef[bgMode sc.regs]? <;> simp [optApplies, modeRow, hrow]

/-- The word of the horizontal override, or of both (R168, R169). -/
theorem optEntry_zero (sc : Scene) (c : Int) :
    optEntry sc c 0 = mapWord sc .bg3 (8 * c + (sc.regs.bg3hofs.toNat : Int)) (sc.regs.bg3vofs.toNat : Int) := by
  rw [optEntry, mul_zero, zero_add, zext, zext]

/-- The word of the vertical override, one tile below (R168, R169). -/
theorem optEntry_one (sc : Scene) (c : Int) :
    optEntry sc c 1 = mapWord sc .bg3 (8 * c + (sc.regs.bg3hofs.toNat : Int)) (8 + (sc.regs.bg3vofs.toNat : Int)) := by
  rw [optEntry, mul_one, zext, zext]

section
variable {sc : Scene} {l : Bg} {lx ly sy col : Int} {hv vv : VWord}
  (hcol : optColumn (zext (bgHofs sc.regs l)) lx = col) (hpos : 0 < col) (hhv : optEntry sc (col - 1) 0 = hv)
include hcol hpos hhv

/-- In mode 4 bit 15 of the one word says which axis it overrides (R168). -/
theorem opt_of_one_word (hmode : bgMode sc.regs = 4) :
    opt sc l lx ly sy =
      (if hv.getLsbD (optValidBit l) && !hv.getLsbD 15 then (slice hv 3 7 : Int) * 8 + col * 8 + lx % 8 else lx,
       if hv.getLsbD (optValidBit l) && hv.getLsbD 15 then (slice hv 0 10 : Int) + sy else ly) := by
  cases hb : hv.getLsbD 15 with
  | true =>
    have hwords : optWords sc col = (0, hv) := by
      simp only [optWords, if_pos hmode, hhv, hb, if_true]
    rw [opt_of_column_pos hcol hpos hwords]
    simp
  | false =>
    have hwords : optWords sc col = (hv, 0) := by
      simp only [optWords, if_pos hmode, hhv, hb, Bool.false_eq_true, if_false]
    rw [opt_of_column_pos hcol hpos hwords]
    simp

/-- In the other modes there is one word for each axis (R168). -/
theorem opt_of_two_words (hvv : optEntry sc (col - 1) 1 = vv) (hmode : bgMode sc.regs ≠ 4) :
    opt sc l lx ly sy =
      (if hv.getLsbD (optValidBit l) then (slice hv 3 7 : Int) * 8 + col * 8 + lx % 8 else lx,
       if vv.getLsbD (optValidBit l) then (slice vv 0 10 : Int) + sy else ly) := by
  have hwords : optWords sc col = (hv, vv) := by simp [optWords, hmode, hhv, hvv]
  exact opt_of_column_pos hcol hpos hwords

end

/-! ## Scroll modulo the tilemap -/

/-- A tilemap's width in pixels is a multiple of 8, so scroll values that agree modulo it agree inside a column. -/
theorem eight_dvd_mapW (g : Regs) (k : Bg) : (8 : Int) ∣ (mapW g k * tileSize g k : Nat) := by
  have h := mapW_tileSize g k
  simp only [List.mem_cons, List.not_mem_nil, or_false] at h
  omega

/-- Scroll values that agree modulo 8 pick the same override column. -/
theorem optColumn_congr {h h' : Int} (sx : Int) (hmod : h % 8 = h' % 8) :
    optColumn h (sx + h) = optColumn h' (sx + h') := by
  unfold optColumn
  omega

/-- The scene with all scroll values replaced (10_state.md R37). -/
def Scene.withScroll (sc : Scene) (hofs vofs : Bg → BitVec 16) : Scene :=
  { sc with regs := { sc.regs with
      bg1hofs := hofs .bg1, bg2hofs := hofs .bg2, bg3hofs := hofs .bg3, bg4hofs := hofs .bg4,
      bg1vofs := vofs .bg1, bg2vofs := vofs .bg2, bg3vofs := vofs .bg3, bg4vofs := vofs .bg4 } }

section
variable (sc : Scene) (hofs vofs : Bg → BitVec 16) (l : Bg)

@[simp] theorem Scene.bgHofs_withScroll : bgHofs (sc.withScroll hofs vofs).regs l = hofs l := by
  cases l <;> rfl

@[simp] theorem Scene.bgVofs_withScroll : bgVofs (sc.withScroll hofs vofs).regs l = vofs l := by
  cases l <;> rfl

@[simp] theorem Scene.optApplies_withScroll : optApplies (sc.withScroll hofs vofs) l = optApplies sc l := rfl

/-- The override words are read through BG3's scroll only (R169). -/
theorem Scene.optEntry_withScroll (c r : Int) :
    optEntry (sc.withScroll hofs vofs) c r = mapWord sc .bg3 (8 * c + zext (hofs .bg3)) (8 * r + zext (vofs .bg3)) :=
  rfl

/-- Scroll acts on a layer's pixel through the scrolled position only (R154). -/
theorem Scene.bgPixel_withScroll (bpp : Nat) (x : Int) (y : Nat) :
    bgPixel (sc.withScroll hofs vofs) l bpp x y =
      tileSample sc l bpp
        (scrolled (sc.withScroll hofs vofs) l (mosaicX sc.regs l x) (mosaicY sc.regs l y)).1
        (scrolled (sc.withScroll hofs vofs) l (mosaicX sc.regs l x) (mosaicY sc.regs l y)).2 := rfl

end

theorem ite_modEq_of_else {p : Prop} [Decidable p] {n a u v : Int} (h : u ≡ v [ZMOD n]) :
    (if p then a else u) ≡ (if p then a else v) [ZMOD n] := by
  split
  · rfl
  · exact h

section
variable {sc : Scene} {hofs hofs' vofs vofs' : Bg → BitVec 16}
  (hh : ∀ k, zext (hofs k) ≡ zext (hofs' k) [ZMOD (mapW sc.regs k * tileSize sc.regs k : Nat)])
  (hv : ∀ k, zext (vofs k) ≡ zext (vofs' k) [ZMOD (mapH sc.regs k * tileSize sc.regs k : Nat)])
include hh hv

theorem optEntry_scroll_congr : optEntry (sc.withScroll hofs vofs) = optEntry (sc.withScroll hofs' vofs') := by
  funext c r
  rw [Scene.optEntry_withScroll, Scene.optEntry_withScroll]
  exact mapWord_congr _ _ _ _ _ _ ((hh .bg3).add_left _) ((hv .bg3).add_left _)

theorem optWords_scroll_congr (col : Int) :
    optWords (sc.withScroll hofs vofs) col = optWords (sc.withScroll hofs' vofs') col := by
  unfold optWords
  rw [optEntry_scroll_congr hh hv]
  rfl

/-- The scrolled positions agree modulo the tilemap's size, overridden or not (R158, R168). -/
theorem scrolled_scroll_modEq (l : Bg) (sx sy : Int) :
    (scrolled (sc.withScroll hofs vofs) l sx sy).1 ≡ (scrolled (sc.withScroll hofs' vofs') l sx sy).1
        [ZMOD (mapW sc.regs l * tileSize sc.regs l : Nat)] ∧
      (scrolled (sc.withScroll hofs vofs) l sx sy).2 ≡ (scrolled (sc.withScroll hofs' vofs') l sx sy).2
        [ZMOD (mapH sc.regs l * tileSize sc.regs l : Nat)] := by
  have hlx := (hh l).add_left sx
  have hly := (hv l).add_left sy
  cases happlies : optApplies sc l with
  | false =>
    rw [scrolled_of_not_optApplies (by simpa), scrolled_of_not_optApplies (by simpa)]
    simp only [Scene.bgHofs_withScroll, Scene.bgVofs_withScroll]
    exact ⟨hlx, hly⟩
  | true =>
    rw [scrolled_of_optApplies (by simpa), scrolled_of_optApplies (by simpa)]
    simp only [Scene.bgHofs_withScroll, Scene.bgVofs_withScroll]
    obtain ⟨col, hcol⟩ : ∃ col, optColumn (zext (hofs l)) (sx + zext (hofs l)) = col := ⟨_, rfl⟩
    have hcol' := (optColumn_congr sx ((hh l).of_dvd (eight_dvd_mapW _ _))).symm.trans hcol
    obtain hle | hpos := le_or_gt col 0
    · rw [opt_of_column_le (by simpa using hcol) hle, opt_of_column_le (by simpa using hcol') hle]
      exact ⟨hlx, hly⟩
    · have hsub : (sx + zext (hofs l)) % 8 = (sx + zext (hofs' l)) % 8 := hlx.of_dvd (eight_dvd_mapW _ _)
      cases hwords : optWords (sc.withScroll hofs vofs) col with
      | mk horiz vert =>
        rw [opt_of_column_pos (by simpa using hcol) hpos hwords,
          opt_of_column_pos (by simpa using hcol') hpos (optWords_scroll_congr hh hv col ▸ hwords), hsub]
        exact ⟨ite_modEq_of_else hlx, ite_modEq_of_else hly⟩

theorem bgPixel_scroll_congr (l : Bg) (bpp : Nat) (x : Int) (y : Nat) :
    bgPixel (sc.withScroll hofs vofs) l bpp x y = bgPixel (sc.withScroll hofs' vofs') l bpp x y := by
  obtain ⟨hu, hw⟩ := scrolled_scroll_modEq hh hv l (mosaicX sc.regs l x) (mosaicY sc.regs l y)
  rw [Scene.bgPixel_withScroll, Scene.bgPixel_withScroll]
  exact tileSample_congr _ _ _ _ _ _ _ hu hw

end

/-- Replacing one layer's scroll by values that agree modulo a size of that layer. -/
theorem zext_update_modEq (f : Bg → BitVec 16) (size : Bg → Nat) {k : Bg} {a b : BitVec 16}
    (h : a.toNat % size k = b.toNat % size k) (j : Bg) :
    zext (Function.update f k a j) ≡ zext (Function.update f k b j) [ZMOD (size j : Nat)] := by
  by_cases hj : j = k
  · subst hj
    simpa only [Function.update_self, zext] using Int.natCast_modEq_iff.2 h
  · simp only [Function.update_of_ne hj, Int.ModEq.refl]

/-- Settles O56: for one layer's scroll replaced, the scrolled positions and the override words stay the same modulo
the tilemaps' sizes. -/
theorem scrollWrapsAroundTheTilemap : Obligations.ScrollWrapsAroundTheTilemap := by
  intro sc bpp x y h h' v v'
  refine ⟨fun k => ⟨rfl, rfl, rfl, mapW_tileSize _ k, mapH_tileSize _ k⟩, fun k l hh hv => ?_⟩
  have hpixel := bgPixel_scroll_congr (sc := sc)
    (zext_update_modEq (bgHofs sc.regs) (fun j => mapW sc.regs j * tileSize sc.regs j) hh)
    (zext_update_modEq (bgVofs sc.regs) (fun j => mapH sc.regs j * tileSize sc.regs j) hv) l bpp x y
  refine ⟨?_, ?_, ?_, ?_⟩ <;> (rintro rfl; exact hpixel)

end Sys2Proof.Machine
end

section
/-! The pixel of a tile layer (41_background_renderer.md R151 to R169): its colour by depth, the layers and depths of a
mode, and the whole of `BgPixel` from the register bits. -/

namespace Sys2Proof.Machine

/-- The lower screens of a tilemap stand after two upper ones iff it is 64 tiles wide, which is `W64` (R159). -/
theorem ite_mapW_eq (g : Regs) (l : Bg) (a b : Nat) :
    (if mapW g l = 64 then a else b) = if bgW64 g l then a else b := by
  unfold mapW
  cases bgW64 g l <;> rfl

/-- The channels of a direct colour: pixel bits above palette bits (R167). -/
theorem unpack15_directColour (pal : BitVec 3) {pix : Nat} (h : pix < 256) :
    unpack15 (directColour pal pix) =
      { r := 4 * (pix % 8) + 2 * (pal.toNat % 2), g := 4 * (pix / 8 % 8) + 2 * (pal.toNat / 2 % 2),
        b := 8 * (pix / 64) + 4 * (pal.toNat / 4) } := by
  have hpal := pal.isLt
  simp only [directColour, unpack15_pack15, slice_eq, bitNat_eq, BitVec.toNat_ofNat, Rgb.mk.injEq]
  omega

/-- The colour index by depth, as a number (R164). -/
theorem colourIndex_toNat (g : Regs) (l : Bg) {bpp pix : Nat} (pal : BitVec 3) (h : pix < 2 ^ bpp) :
    (bpp = 2 → (colourIndex g l bpp pal pix).toNat = 4 * pal.toNat + pix + (if bgMode g = 0 then 32 * l.num else 0)) ∧
    (bpp = 4 → (colourIndex g l bpp pal pix).toNat = 16 * pal.toNat + pix) ∧
    (bpp = 8 → (colourIndex g l bpp pal pix).toNat = pix) := by
  have hpal := pal.isLt
  have hlayer : (if bgMode g = 0 then 32 * l.num else 0) ≤ 96 := by
    cases l <;> split <;> decide
  refine ⟨?_, ?_, ?_⟩ <;> rintro rfl <;> simp only [colourIndex, BitVec.toNat_ofNat] <;> omega

section
variable {g : Regs} {l : Bg} {bpp pix : Nat} {pal : BitVec 3} {prio : Bool}

theorem colour_prio : (colour g l bpp pal pix prio).prio = prio := by
  unfold colour
  split <;> rfl

/-- BG1 at 8 bits with `DIRECT` has its own colour (R167). -/
theorem colour_direct (hdirect : cgDirect g = true ∧ bpp = 8 ∧ l = .bg1) (hpix : pix < 2 ^ bpp) :
    (colour g l bpp pal pix prio).direct = true ∧ unpack15 (colour g l bpp pal pix prio).dcol =
      { r := 4 * (pix % 8) + 2 * (pal.toNat % 2), g := 4 * (pix / 8 % 8) + 2 * (pal.toNat / 2 % 2),
        b := 8 * (pix / 64) + 4 * (pal.toNat / 4) } := by
  rw [colour, if_pos hdirect]
  obtain ⟨-, rfl, -⟩ := hdirect
  exact ⟨rfl, unpack15_directColour pal hpix⟩

/-- Every other pixel has an index into CGRAM (R164). -/
theorem colour_indexed (hindexed : ¬ (cgDirect g = true ∧ bpp = 8 ∧ l = .bg1)) :
    (colour g l bpp pal pix prio).direct = false ∧
      (colour g l bpp pal pix prio).cidx = colourIndex g l bpp pal pix := by
  rw [colour, if_neg hindexed]
  exact ⟨rfl, rfl⟩

end

/-- In modes 0 to 4 a layer's pixel is `BgPixel` at the depth of the table, and none at no depth (R151, R155). -/
theorem layerPixel_of_mode_le_four {sc : Scene} {row : ModeRow} (hmode : bgMode sc.regs ≤ 4)
    (hrow : sc.cfg.modeDef[bgMode sc.regs]? = some row) (l : Bg) (x : Int) (y : Nat) :
    layerPixel sc l x y =
      if layerBpp (layerDef row l) = 0 then none else bgPixel sc l (layerBpp (layerDef row l)) x y := by
  have hmodeRow : modeRow sc.cfg (bgMode sc.regs) = row := by
    simp [modeRow, hrow]
  have h7 : bgMode sc.regs ≠ 7 := by omega
  have h56 : ¬ (bgMode sc.regs = 5 ∨ bgMode sc.regs = 6) := by omega
  simp only [layerPixel, hmodeRow, if_neg h7, if_neg h56]
  cases layerDef row l <;> simp [layerPresent, layerBpp]

/-- Settles O60: `word` is the model's tilemap word; the sample, the colour, the depth and the override words are then
what the lemmas above say. -/
theorem tileLayerPixel : Obligations.TileLayerPixel := by
  intro sc word hmap
  have hword : word = mapWord sc := by
    funext k u v
    rw [hmap k u v (mapW sc.regs k) (mapH sc.regs k) (tileSize sc.regs k) _ _ rfl rfl rfl rfl rfl, ite_mapW_eq]
    rfl
  subst hword
  refine ⟨?pixel, ?depth, rfl, fun g => ⟨rfl, rfl, rfl, rfl⟩, ?scroll⟩
  case pixel =>
    intro l bpp x sx y n ph sy p w h t fx fy tile a pix pal e hbpp hn hph hsx hsy hp hw hh ht he hfx hfy htile ha hpix
      hpal
    have hpixel : bgPixel sc l bpp x y =
        if pix = 0 then none else some (colour sc.regs l bpp (e.extractLsb' 10 3) pix (e.getLsbD 13)) := by
      subst hn hph hsx hsy hp hw hh ht he hfx hfy htile ha hpix
      rfl
    have hlt : pix < 2 ^ bpp := hpix ▸ tilePixel_lt sc.mem a bpp _ _ (by omega)
    subst hpal
    refine ⟨fun h0 => by rw [hpixel, if_pos h0], fun h0 => ⟨_, by rw [hpixel, if_neg h0], colour_prio, ?_, ?_⟩⟩
    · exact fun hdirect => colour_direct hdirect hlt
    · intro hindexed
      obtain ⟨hdirect, hcidx⟩ := colour_indexed hindexed
      rw [hcidx]
      exact ⟨hdirect, colourIndex_toNat _ _ _ hlt⟩
  case depth =>
    intro l x y row d hmode hrow hd
    have hdef : layerDef row l = d := by
      obtain ⟨rfl, rfl⟩ | ⟨rfl, rfl⟩ | ⟨rfl, rfl⟩ | ⟨rfl, rfl⟩ := hd <;> rfl
    rw [layerPixel_of_mode_le_four hmode hrow, hdef]
    refine ⟨?_, ?_, ?_, ?_⟩ <;> rintro rfl <;> rfl
  case scroll =>
    rintro l sx sy lx ly col own h v hv vv rfl rfl rfl rfl rfl rfl hhv hvv overridden rfl
    rw [← and_assoc, ← optApplies_iff]
    refine ⟨scrolled_of_not_overridden, ?_⟩
    rintro ⟨happlies, hpos⟩ useH useV rfl rfl
    have hfirst := (optEntry_zero sc _).trans hhv.symm
    have hsecond := (optEntry_one sc _).trans hvv.symm
    rw [scrolled_of_optApplies happlies]
    by_cases hmode : bgMode sc.regs = 4
    · refine (opt_of_one_word rfl hpos hfirst hmode).trans ?_
      rw [hmode]
      rfl
    · refine (opt_of_two_words rfl hpos hfirst hsecond hmode).trans ?_
      rw [if_neg hmode, if_neg hmode, beq_false_of_ne hmode, Bool.false_and, Bool.not_false, Bool.and_true]
      rfl

end Sys2Proof.Machine
end

section
/-! The scan of a scanline's sprites (42_sprite_evaluator.md R181 to R191): which tiles it fetches, and that a cell of
`OBJBUF` takes the first pixel they offer to it. -/

namespace Sys2Proof.Machine

/-! ## The tiles of a list of entries -/

/-- The in-range entries among `is`, in their order (R182, R184, R185). -/
def inRangeEntries (sc : Scene) (y : Nat) (is : List Nat) : List Nat :=
  is.filter (fun i => spriteInRange sc (sprite sc.mem i) y)

/-- The on-screen tiles of the first `n` in-range entries among `is`, in the order of fetching (R182, R186, R188). -/
def scannedTiles (sc : Scene) (y n : Nat) (is : List Nat) : List (Nat × Nat) :=
  ((inRangeEntries sc y is).take n).flatMap (onScreenTiles sc)

theorem lineTiles_eq_scannedTiles (sc : Scene) (y : Nat) :
    lineTiles sc y = scannedTiles sc y spriteLimit (List.range oamSize) := rfl

section
variable {sc : Scene} {y i n : Nat} {is js : List Nat}

theorem scannedTiles_nil : scannedTiles sc y n [] = [] := by
  simp [scannedTiles, inRangeEntries]

theorem scannedTiles_zero : scannedTiles sc y 0 is = [] := by
  simp [scannedTiles]

theorem scannedTiles_cons_of_inRange (h : spriteInRange sc (sprite sc.mem i) y = true) :
    scannedTiles sc y (n + 1) (i :: is) = onScreenTiles sc i ++ scannedTiles sc y n is := by
  simp [scannedTiles, inRangeEntries, h]

theorem scannedTiles_cons_of_not_inRange (h : spriteInRange sc (sprite sc.mem i) y = false) :
    scannedTiles sc y n (i :: is) = scannedTiles sc y n is := by
  simp [scannedTiles, inRangeEntries, h]

/-- More entries after those scanned only add tiles after theirs. -/
theorem scannedTiles_prefix (h : is <+: js) : scannedTiles sc y n is <+: scannedTiles sc y n js :=
  ((h.filter _).take n).flatMap _

/-- Once `n` entries are in range, those after them add nothing (R186). -/
theorem scannedTiles_eq_of_prefix (h : is <+: js) (hn : n ≤ (inRangeEntries sc y is).length) :
    scannedTiles sc y n js = scannedTiles sc y n is := by
  obtain ⟨ks, rfl⟩ := h
  rw [inRangeEntries] at hn
  simp only [scannedTiles, inRangeEntries, List.filter_append, List.take_append_of_le_length hn]

theorem fst_mem_of_mem_scannedTiles {t : Nat × Nat} (ht : t ∈ scannedTiles sc y n is) : t.1 ∈ is := by
  obtain ⟨i, hi, hti⟩ := List.mem_flatMap.1 ht
  obtain ⟨k, -, rfl⟩ := List.mem_map.1 hti
  exact List.mem_of_mem_filter (List.mem_of_mem_take hi)

end

theorem range_prefix_range {j n : Nat} (h : j ≤ n) : List.range j <+: List.range n := by
  obtain ⟨k, rfl⟩ := Nat.exists_eq_add_of_le h
  exact List.range_add ▸ List.prefix_append _ _

/-! ## Fetching tiles -/

/-- Scan `b` is scan `a` after fetching the tiles `ts`, up to the tile limit: the fetched ones are counted, and each
is offered to every cell (R188, R191). -/
def Fetches (sc : Scene) (y : Nat) (ts : List (Nat × Nat)) (a b : ObjScan) : Prop :=
  b.ntile = min tileLimit (a.ntile + ts.length) ∧
    ∀ col o, col < sc.cfg.width → a.buf[col]? = some o →
      b.buf[col]? = some (o.or ((ts.take (tileLimit - a.ntile)).findSome? (tileDot sc y (columnX sc.cfg col))))

section
variable {sc : Scene} {y : Nat} {ts us : List (Nat × Nat)} {a b c : ObjScan}

theorem Fetches.nil (ha : a.ntile ≤ tileLimit) : Fetches sc y [] a a :=
  ⟨(Nat.min_eq_right ha).symm, fun _ _ _ ho => by simpa using ho⟩

/-- At the tile limit nothing more is fetched (R188). -/
theorem Fetches.of_full (ha : a.ntile = tileLimit) : Fetches sc y ts a a :=
  ⟨by omega, fun _ _ _ ho => by simpa [ha] using ho⟩

theorem Fetches.append (hab : Fetches sc y ts a b) (hbc : Fetches sc y us b c) : Fetches sc y (ts ++ us) a c := by
  obtain ⟨hcount, hcells⟩ := hab
  obtain ⟨hcount', hcells'⟩ := hbc
  refine ⟨by rw [List.length_append]; omega, fun col o hcol ho => ?_⟩
  have hleft : tileLimit - b.ntile = tileLimit - a.ntile - ts.length := by omega
  rw [hcells' col _ hcol (hcells col o hcol ho), hleft, List.take_append, List.findSome?_append, Option.or_assoc]

theorem Fetches.ntile_le (h : Fetches sc y ts a b) : b.ntile ≤ tileLimit := h.1 ▸ Nat.min_le_left _ _

end

/-! ## The scan -/

/-- A sprite's tiles are counted whatever the buffer holds, and the flag says that one was left over (R188). -/
theorem scanTiles_count (sc : Scene) (e : Sprite) (w row : Nat) (cols : List Nat) (a : ObjScan) (n : Nat)
    (ha : a.ntile ≤ tileLimit)
    (hn : n = (cols.filter (fun (k : Nat) => tileOnScreen sc.cfg (e.x + (k : Int)))).length) :
    (scanTiles sc e w row cols a).1.ntile = min tileLimit (a.ntile + n) ∧
      (scanTiles sc e w row cols a).1.nspr = a.nspr ∧
      ((scanTiles sc e w row cols a).2 = true ↔ tileLimit < a.ntile + n) := by
  induction cols generalizing a n with
  | nil => simp [scanTiles, ha, hn]
  | cons k cols ih =>
    rw [scanTiles]
    by_cases hk : tileOnScreen sc.cfg (e.x + (k : Int)) = true
    · rw [List.filter_cons_of_pos (by simpa using hk), List.length_cons] at hn
      rw [if_pos hk]
      by_cases hfull : a.ntile = tileLimit
      · rw [if_pos hfull]
        simp [hfull, hn]
      · rw [if_neg hfull]
        obtain ⟨hcount, hspr, hflag⟩ := ih { a with buf := drawTile sc e w row k a.buf, ntile := a.ntile + 1 } _
          (by change a.ntile + 1 ≤ tileLimit; omega) rfl
        refine ⟨?_, hspr, ?_⟩
        · rw [hcount, hn, Nat.add_right_comm, Nat.add_assoc]
        · rw [hflag, hn, Nat.add_right_comm, Nat.add_assoc]
    · rw [if_neg hk]
      rw [List.filter_cons_of_neg (by simpa using hk)] at hn
      exact ih a n ha hn

/-- Scanning sprite `i` as the `n`-th fetches its on-screen tiles; the flag is set only at the tile limit (R188). -/
theorem scanTiles_fetches (sc : Scene) (y i n : Nat) (a : ObjScan) (ha : a.ntile ≤ tileLimit) {e : Sprite}
    {r : ObjScan × Bool} (he : e = sprite sc.mem i)
    (hr : r = scanTiles sc e (e.dim sc).w (bitmapRow e.low.vflip (e.dim sc).h (spriteRow e y))
      (tileCols (e.dim sc).w) { a with nspr := n }) :
    Fetches sc y (onScreenTiles sc i) a r.1 ∧ r.1.nspr = n ∧ (r.2 = true → r.1.ntile = tileLimit) := by
  subst he
  obtain ⟨hcount, hspr, hflag⟩ := scanTiles_count sc _ _ _ _ { a with nspr := n } _ ha rfl
  rw [← hr] at hcount hspr hflag
  refine ⟨⟨by rw [hcount, onScreenTiles, List.length_map], fun col o hcol ho => ?_⟩, hspr, fun hr2 => ?_⟩
  · obtain ⟨hcell, -⟩ := scanTiles_get sc y i _ { a with nspr := n } col o hcol ho ha _ r rfl hr
    rw [hcell, onScreenTiles, ← List.map_take, List.findSome?_map]
    rfl
  · have := hflag.1 hr2
    omega

/-- The scan fetches the tiles of the in-range entries, in their order, up to the sprite limit (R181, R186, R188). -/
theorem scanSprites_fetches (sc : Scene) (y : Nat) (is : List Nat) (a : ObjScan) (hs : a.nspr ≤ spriteLimit)
    (ha : a.ntile ≤ tileLimit) :
    Fetches sc y (scannedTiles sc y (spriteLimit - a.nspr) is) a (scanSprites sc y is a) ∧
      (scanSprites sc y is a).nspr ≤ spriteLimit := by
  induction is generalizing a with
  | nil => exact ⟨scannedTiles_nil ▸ .nil ha, hs⟩
  | cons i is ih =>
    rw [scanSprites]
    cases hrange : spriteInRange sc (sprite sc.mem i) y with
    | false =>
      rw [if_pos rfl, scannedTiles_cons_of_not_inRange hrange]
      exact ih a hs ha
    | true =>
      rw [if_neg (by decide)]
      by_cases hfull : a.nspr = spriteLimit
      · rw [if_pos hfull, hfull, Nat.sub_self, scannedTiles_zero]
        exact ⟨.nil ha, le_rfl⟩
      · rw [if_neg hfull]
        obtain ⟨n, hn⟩ : ∃ n, spriteLimit - a.nspr = n + 1 := ⟨spriteLimit - (a.nspr + 1), by omega⟩
        rw [hn, scannedTiles_cons_of_inRange hrange]
        dsimp only
        generalize hr : scanTiles sc _ _ _ _ _ = r
        obtain ⟨hfetch, hspr, hflag⟩ := scanTiles_fetches sc y i (a.nspr + 1) a ha rfl hr.symm
        split
        · exact ⟨hfetch.append (.of_full (hflag ‹_›)), by omega⟩
        · have hleft : spriteLimit - r.1.nspr = n := by omega
          obtain ⟨hrest, hle⟩ := ih r.1 (by omega) hfetch.ntile_le
          exact ⟨hfetch.append (hleft ▸ hrest), hle⟩

/-- The scan from its start, where every cell is empty (R181). -/
theorem scanSprites_start_fetches (sc : Scene) (y : Nat) (is : List Nat) :
    Fetches sc y (scannedTiles sc y spriteLimit is) (ObjScan.start sc.cfg)
        (scanSprites sc y is (ObjScan.start sc.cfg)) ∧
      (scanSprites sc y is (ObjScan.start sc.cfg)).nspr ≤ spriteLimit :=
  scanSprites_fetches sc y is (ObjScan.start sc.cfg) (Nat.zero_le _) (Nat.zero_le _)

/-- Each cell holds the first pixel that the fetched tiles offer to it (R188, R191). -/
theorem scanSprites_start_get (sc : Scene) (y : Nat) (is : List Nat) {col : Nat} (hcol : col < sc.cfg.width) :
    (scanSprites sc y is (ObjScan.start sc.cfg)).buf[col]? =
      some (((scannedTiles sc y spriteLimit is).take tileLimit).findSome? (tileDot sc y (columnX sc.cfg col))) := by
  obtain ⟨⟨-, hcells⟩, -⟩ := scanSprites_start_fetches sc y is
  exact hcells col none hcol (by simp [ObjScan.start, hcol])

/-- `OBJBUF` by column (R181, R188, R191). -/
theorem lineObj_get (sc : Scene) (y : Nat) {col : Nat} (hcol : col < sc.cfg.width) :
    (lineObj sc y)[col]? =
      some (((lineTiles sc y).take tileLimit).findSome? (tileDot sc y (columnX sc.cfg col))) := by
  rw [lineTiles_eq_scannedTiles]
  exact scanSprites_start_get sc y (List.range oamSize) hcol

/-! ## Entries of a higher index -/

/-- Settles O49: the tiles of the entries below `j` come first among all those fetched. -/
theorem lowerSpriteIndexWins : Obligations.LowerSpriteIndexWins := by
  intro sc y j col p hj hp
  have hcol : col < sc.cfg.width := by
    obtain ⟨hlt, -⟩ := List.getElem?_eq_some_iff.1 hp
    simpa [ObjScan.start] using hlt
  have hprefix := (scannedTiles_prefix (sc := sc) (y := y) (n := spriteLimit) (range_prefix_range hj)).take tileLimit
  rw [scanSprites_start_get sc y _ hcol, Option.some_inj] at hp
  exact (lineObj_get sc y hcol).trans (congrArg some (hprefix.findSome?_eq_some hp))

section
variable {sc sc' : Scene} (hcfg : sc.cfg = sc'.cfg) (hregs : sc.regs = sc'.regs)
include hcfg hregs

theorem spriteInRange_congr (e : Sprite) (y : Nat) : spriteInRange sc e y = spriteInRange sc' e y := by
  cases sc
  cases hcfg
  cases hregs
  rfl

theorem onScreenTiles_congr {i : Nat} (hi : sprite sc.mem i = sprite sc'.mem i) :
    onScreenTiles sc i = onScreenTiles sc' i := by
  simp only [onScreenTiles, Sprite.dim, hi, hcfg, hregs]

/-- A tile's dot is made of the parameters, the registers, VRAM and its own sprite's entry (R187, R189, R190). -/
theorem tileDot_congr (hvram : sc.mem.vram = sc'.mem.vram) (y : Nat) (x : Int) {t : Nat × Nat}
    (ht : sprite sc.mem t.1 = sprite sc'.mem t.1) : tileDot sc y x t = tileDot sc' y x t := by
  have hread : readVram sc.mem = readVram sc'.mem := by
    funext a
    rw [readVram, readVram, hvram]
  rw [tileDot, ht, hread]
  cases sc
  cases hcfg
  cases hregs
  rfl

theorem inRangeEntries_congr (y : Nat) {is : List Nat} (his : ∀ i ∈ is, sprite sc.mem i = sprite sc'.mem i) :
    inRangeEntries sc y is = inRangeEntries sc' y is :=
  List.filter_congr fun i hi => by rw [his i hi, spriteInRange_congr hcfg hregs]

theorem scannedTiles_congr (y n : Nat) {is : List Nat} (his : ∀ i ∈ is, sprite sc.mem i = sprite sc'.mem i) :
    scannedTiles sc y n is = scannedTiles sc' y n is := by
  rw [scannedTiles, scannedTiles, ← inRangeEntries_congr hcfg hregs y his]
  exact List.flatMap_congr fun i hi =>
    onScreenTiles_congr hcfg hregs (his i (List.mem_of_mem_filter (List.mem_of_mem_take hi)))

/-- The same tiles, each with the same dots, make the same `OBJBUF`. -/
theorem lineObj_congr (hvram : sc.mem.vram = sc'.mem.vram) {y : Nat} (htiles : lineTiles sc y = lineTiles sc' y)
    (hsprites : ∀ t ∈ lineTiles sc y, sprite sc.mem t.1 = sprite sc'.mem t.1) : lineObj sc y = lineObj sc' y := by
  refine List.ext_getElem? fun col => ?_
  obtain hcol | hcol := lt_or_ge col sc.cfg.width
  · rw [lineObj_get sc y hcol, lineObj_get sc' y (hcfg ▸ hcol), ← htiles, ← hcfg, ← List.head?_filterMap,
      ← List.head?_filterMap]
    refine congrArg (fun l => some (List.head? l)) (List.filterMap_congr fun t ht => ?_)
    exact tileDot_congr hcfg hregs hvram y _ (hsprites t (List.mem_of_mem_take ht))
  · rw [List.getElem?_eq_none (by simpa using hcol), List.getElem?_eq_none (by simpa [← hcfg] using hcol)]

end

/-- Settles O48: all tiles of the line are those of the entries below `j`, and they are the same in both scenes. -/
theorem spritesBeyondTheFirst32AreDropped : Obligations.SpritesBeyondTheFirst32AreDropped := by
  intro sc sc' y j hcfg hregs hvram hsprites hj h32
  have hbelow : ∀ i ∈ List.range j, sprite sc.mem i = sprite sc'.mem i := fun i hi => hsprites i (List.mem_range.1 hi)
  have h32 : spriteLimit ≤ (inRangeEntries sc y (List.range j)).length := h32
  have hall : lineTiles sc y = scannedTiles sc y spriteLimit (List.range j) :=
    scannedTiles_eq_of_prefix (range_prefix_range hj) h32
  have hall' : lineTiles sc' y = scannedTiles sc' y spriteLimit (List.range j) :=
    scannedTiles_eq_of_prefix (range_prefix_range hj) (inRangeEntries_congr hcfg hregs y hbelow ▸ h32)
  refine lineObj_congr hcfg hregs hvram ?_ fun t ht => hbelow _ (fst_mem_of_mem_scannedTiles (hall ▸ ht))
  rw [hall, hall', scannedTiles_congr hcfg hregs y _ hbelow]

/-! ## Sizes and tile columns -/

/-- The tile columns 0, 8, ..., w − 8 (R181). -/
theorem mem_tileCols {w k : Nat} : k ∈ tileCols w ↔ k % 8 = 0 ∧ k + 8 ≤ w := by
  simp only [tileCols, List.mem_map, List.mem_range]
  constructor
  · rintro ⟨j, hj, rfl⟩
    omega
  · rintro ⟨hmod, hle⟩
    exact ⟨k / 8, by omega, by omega⟩

theorem tileCols_pairwise_lt (w : Nat) : (tileCols w).Pairwise (fun k k' => k < k') :=
  List.pairwise_map.2 (List.pairwise_lt_range.imp fun h => by omega)

theorem objDim_of_getElem? {c : Config} {preset : Nat} {row : ObjSizeRow} (h : c.objSize[preset]? = some row)
    (large : Bool) : objDim c preset large = if large then row.large else row.small := by
  simp [objDim, List.getD, h]

/-- An entry is in range iff it covers the scanline and reaches past the left edge (R184, R185). -/
theorem spriteInRange_iff (sc : Scene) (e : Sprite) (y : Nat) :
    spriteInRange sc e y = true ↔
      ((y : Int) - (e.low.y.toNat : Int)) % 256 < ((e.dim sc).h : Int) ∧
        -((e.dim sc).w : Int) - (sc.cfg.padL : Int) < e.x := by
  have hrow : (spriteRow e y : Int) = ((y : Int) - (e.low.y.toNat : Int)) % 256 :=
    Int.toNat_of_nonneg (Int.emod_nonneg _ (by decide))
  rw [spriteInRange, Bool.and_eq_true, decide_eq_true_eq, decide_eq_true_eq, ← hrow, Int.ofNat_lt]

/-- Settles O47: the range test and the tile columns from the register and entry bits; the counts and the cells from
what the scan fetches. -/
theorem spriteLimits : Obligations.SpriteLimits := by
  refine ⟨?entry, fun c z => ⟨?edges, tileOnScreen_iff c z⟩, rfl, fun sc y => ?line⟩
  case entry =>
    rintro sc y i w h x low high row rfl rfl rfl hrow rfl rfl
    have hdim : (sprite sc.mem i).dim sc = if (readHigh sc.mem i).size then row.large else row.small :=
      objDim_of_getElem? hrow _
    rw [spriteInRange_iff, sprite_x, hdim]
    refine ⟨rfl, ?_, ?_, fun k => mem_tileCols, tileCols_pairwise_lt _⟩
    · split <;> rfl
    · simp only [apply_ite ObjDim.w, apply_ite ObjDim.h]
      rfl
  case edges =>
    rw [tileOnScreen, Bool.and_eq_true, decide_eq_true_eq, decide_eq_true_eq]
    rfl
  case line =>
    obtain ⟨⟨hcount, -⟩, hspr⟩ := scanSprites_start_fetches sc y (List.range oamSize)
    exact ⟨hspr, hcount.trans (congrArg _ (Nat.zero_add _)), List.length_take_le _ _, fun col => lineObj_get sc y⟩

end Sys2Proof.Machine
end

section
/-! The pixel of a sprite's tile (42_sprite_evaluator.md R187 to R192), as numbers: the address of its row, the value
from the plane bits, and the entry it leaves in `OBJBUF`. -/

namespace Sys2Proof.Machine

/-- The word address of a row of a tile, wrapped in the sheet of 16 × 16 tiles and in VRAM (R189). -/
theorem objTileAddr_eq (g : Regs) (low : OamLow) (tc row : Nat) :
    objTileAddr g low tc row =
      ((g.obsel.extractLsb' 0 3).toNat * 8192 +
        (if low.name then ((g.obsel.extractLsb' 3 2).toNat + 1) * 4096 else 0) +
        (16 * ((low.tile.toNat / 16 + row / 8) % 16) + (low.tile.toNat % 16 + tc) % 16) * 16 + row % 8) % 32768 := by
  have htile := low.tile.isLt
  have hrow : slice low.tile 4 4 = low.tile.toNat / 16 := by
    rw [slice_eq]
    omega
  have hcol : slice low.tile 0 4 = low.tile.toNat % 16 := by
    rw [slice_eq]
    omega
  simp only [objTileAddr, hrow, hcol, Nat.add_assoc]
  rfl

/-- A tile's value is four plane bits (R190). -/
theorem objPix_eq (w0 w1 : VWord) (b : Nat) :
    objPix w0 w1 b = (w0.getLsbD b).toNat + 2 * (w0.getLsbD (8 + b)).toNat + 4 * (w1.getLsbD b).toNat +
      8 * (w1.getLsbD (8 + b)).toNat := by
  simp only [objPix, bitNat_eq_toNat]

/-- Sprites use the upper half of the palette (R190). -/
theorem objPixel_cidx_toNat (low : OamLow) {pix : Nat} (h : pix < 16) :
    (objPixel low pix).cidx.toNat = 128 + 16 * low.pal.toNat + pix := by
  have hpal := low.pal.isLt
  simp only [objPixel, BitVec.toNat_ofNat]
  omega

/-- The group flag is that of palettes 4 to 7 (R192). -/
theorem objPixel_pal47 (low : OamLow) (pix : Nat) : (objPixel low pix).pal47 = true ↔ 4 ≤ low.pal.toNat :=
  decide_eq_true_iff

/-- A sprite pixel that shows has a colour of the upper palettes, never colour 0 of one (R190, R192). -/
theorem objPixel_in_upper_palettes (low : OamLow) {pix : Nat} (hlt : pix < 16) (hne : pix ≠ 0) :
    128 ≤ (objPixel low pix).cidx.toNat ∧ (objPixel low pix).cidx.toNat % 16 ≠ 0 ∧
      ((objPixel low pix).pal47 = true ↔ 192 ≤ (objPixel low pix).cidx.toNat) := by
  rw [objPixel_cidx_toNat low hlt, objPixel_pal47]
  omega

/-- A dot is a sprite pixel of some value from 1 to 15 (R190). -/
theorem tileDot_eq_some {sc : Scene} {y : Nat} {x : Int} {t : Nat × Nat} {o : ObjPixel} (h : tileDot sc y x t = some o) :
    ∃ low pix, pix < 16 ∧ pix ≠ 0 ∧ o = objPixel low pix := by
  obtain ⟨⟨-, -, hne⟩, ho⟩ := Option.ite_none_right_eq_some.1 h
  exact ⟨_, _, objPix_lt _ _ _, hne, (Option.some_inj.1 ho).symm⟩

/-- Every pixel of `OBJBUF` is a dot of one of the line's tiles (R191). -/
theorem exists_tileDot_of_mem_lineObj {sc : Scene} {y : Nat} {o : ObjPixel} (h : some o ∈ lineObj sc y) :
    ∃ x t, tileDot sc y x t = some o := by
  obtain ⟨col, hcol⟩ := List.mem_iff_getElem?.1 h
  have hlt : col < sc.cfg.width := by
    obtain ⟨hlt, -⟩ := List.getElem?_eq_some_iff.1 hcol
    simpa using hlt
  rw [lineObj_get sc y hlt, Option.some_inj] at hcol
  obtain ⟨t, -, ht⟩ := List.exists_of_findSome?_eq_some hcol
  exact ⟨_, t, ht⟩

/-- Settles O50: the dot by R189's address and R190's bits, then its three cases; `OBJBUF` holds dots only. -/
theorem spritePixelValue : Obligations.SpritePixelValue := by
  refine ⟨?dot, fun sc y o ho => ?upper⟩
  case dot =>
    intro sc y i c x p e d r row tc a b pix w0 w1 he hd hp hr hrow htc ha hw0 hw1 hb hpix
    rw [← objPix_eq] at hpix
    have hlt : pix < 16 := hpix ▸ objPix_lt _ _ _
    have hdot : tileDot sc y x (i, c) = if 0 ≤ p ∧ p < 8 ∧ pix ≠ 0 then some (objPixel e pix) else none := by
      subst he hd hp hr hrow htc
      rw [← objTileAddr_eq] at ha
      subst ha hw0 hw1 hb hpix
      rfl
    rw [hdot]
    refine ⟨fun hout => if_neg (by omega), fun _ _ hzero => if_neg (by simp [hzero]), fun hlo hhi hne => ?_⟩
    exact ⟨objPixel e pix, if_pos ⟨hlo, by omega, hne⟩, objPixel_cidx_toNat e hlt, rfl, objPixel_pal47 e pix⟩
  case upper =>
    obtain ⟨x, t, ht⟩ := exists_tileDot_of_mem_lineObj ho
    obtain ⟨low, pix, hlt, hne, rfl⟩ := tileDot_eq_some ht
    exact objPixel_in_upper_palettes low hlt hne

end Sys2Proof.Machine
end

section
/-! Mode 7 (43_mode7.md R200 to R210): the transform, the texture and its three kinds of fetch, and the candidates that
a fetched pixel makes. -/

namespace Sys2Proof.Machine

/-! ## The transform -/

/-- The coordinate with the shift as a quotient that rounds down (R202). -/
theorem m7Coord_eq {g : Regs} {x y dx dy : Int} (hdx : dx = x + g.bg1hofs.toInt - g.m7x.toInt)
    (hdy : dy = y + g.bg1vofs.toInt - g.m7y.toInt) :
    m7Coord g x y = ((g.m7a.toInt * dx + g.m7b.toInt * dy) / 256 + g.m7x.toInt,
      (g.m7c.toInt * dx + g.m7d.toInt * dy) / 256 + g.m7y.toInt) := by
  subst hdx hdy
  rfl

/-- A factor −1/2 takes the position one right of the centre to the one left of it: the shift rounds down (R210). -/
theorem m7Coord_fst_of_minus_half {g : Regs} {x y : Int} (ha : g.m7a = 0xFF80) (hb : g.m7b = 0)
    (hdx : x + g.bg1hofs.toInt - g.m7x.toInt = 1) : (m7Coord g x y).1 = g.m7x.toInt - 1 := by
  have hA : g.m7a.toInt = -128 := by rw [ha]; rfl
  have hB : g.m7b.toInt = 0 := by rw [hb]; rfl
  rw [m7Coord_eq hdx.symm rfl, hA, hB]
  omega

/-- The zero matrix shows the centre everywhere (R210). -/
theorem m7Coord_of_zero_matrix {g : Regs} (ha : g.m7a = 0) (hb : g.m7b = 0) (hc : g.m7c = 0) (hd : g.m7d = 0)
    (x y : Int) : m7Coord g x y = (g.m7x.toInt, g.m7y.toInt) := by
  rw [m7Coord_eq rfl rfl, ha, hb, hc, hd]
  simp

/-- The identity matrix about the origin, without scroll, keeps every position (R209). -/
theorem m7Coord_of_identity {g : Regs} (ha : g.m7a = 256) (hd : g.m7d = 256) (hb : g.m7b = 0) (hc : g.m7c = 0)
    (hx : g.m7x = 0) (hy : g.m7y = 0) (hh : g.bg1hofs = 0) (hv : g.bg1vofs = 0) (x y : Int) :
    m7Coord g x y = (x, y) := by
  have hone : (256#16).toInt = 256 := rfl
  rw [m7Coord_eq rfl rfl, ha, hb, hc, hd, hx, hy, hh, hv]
  simp [hone]

/-! ## The texture -/

/-- The coordinate lies in the 1024×1024 texture (R204). -/
abbrev InTexture (u v : Int) : Prop := 0 ≤ u ∧ u ≤ 1023 ∧ 0 ≤ v ∧ v ≤ 1023

theorem m7Outside_eq_false_iff (u v : Int) : m7Outside u v = false ↔ InTexture u v := by
  simp [m7Outside, and_assoc]

/-- The pixel of the texture at `(u, v)`: that of the tile which the map names there (R204, R205). -/
def texel (m : Memory) (u v : Nat) : BitVec 8 := m7TilePixel m (m7MapTile m u v) u v

/-- The texture repeated in both directions (R204). -/
def repeatedTexel (m : Memory) (u v : Int) : BitVec 8 := texel m (u % 1024).toNat (v % 1024).toNat

theorem repeatedTexel_congr (m : Memory) {u u' v v' : Int} (hu : u % 1024 = u' % 1024) (hv : v % 1024 = v' % 1024) :
    repeatedTexel m u v = repeatedTexel m u' v' := by
  rw [repeatedTexel, hu, hv, repeatedTexel]

theorem repeatedTexel_of_inTexture (m : Memory) {u v : Int} (h : InTexture u v) :
    repeatedTexel m u v = texel m u.toNat v.toNat := by
  obtain ⟨hu0, hu, hv0, hv⟩ := h
  rw [repeatedTexel, Int.emod_eq_of_lt hu0 (by omega), Int.emod_eq_of_lt hv0 (by omega)]

/-! ## The fetch -/

section
variable {sc : Scene} {u v : Int}

/-- Repeat modes 0 and 1 wrap the coordinate (R204). -/
theorem m7Fetch_of_wrapping (h : m7Repeat sc.regs = 0 ∨ m7Repeat sc.regs = 1) :
    m7Fetch sc u v = some (repeatedTexel sc.mem u v) := by
  rw [m7Fetch, if_pos h, repeatedTexel, texel]

/-- Inside the texture the repeat mode does not matter (R204). -/
theorem m7Fetch_of_inTexture (h : InTexture u v) : m7Fetch sc u v = some (repeatedTexel sc.mem u v) := by
  by_cases hwrap : m7Repeat sc.regs = 0 ∨ m7Repeat sc.regs = 1
  · exact m7Fetch_of_wrapping hwrap
  · rw [m7Fetch, if_neg hwrap, if_pos ((m7Outside_eq_false_iff u v).2 h), repeatedTexel_of_inTexture _ h, texel]

/-- Repeat mode 2 shows nothing outside the texture (R204). -/
theorem m7Fetch_outside_of_transparent (hout : ¬ InTexture u v) (h : m7Repeat sc.regs = 2) : m7Fetch sc u v = none := by
  rw [m7Fetch, if_neg (by omega), if_neg (mt (m7Outside_eq_false_iff u v).1 hout), if_pos h]

/-- Repeat mode 3 shows tile 0 outside the texture (R204). -/
theorem m7Fetch_outside_of_tileZero (hout : ¬ InTexture u v) (h : m7Repeat sc.regs = 3) :
    m7Fetch sc u v = some (m7TilePixel sc.mem 0 (u % 8).toNat (v % 8).toNat) := by
  rw [m7Fetch, if_neg (by omega), if_neg (mt (m7Outside_eq_false_iff u v).1 hout), if_neg (by omega)]

/-- The three kinds of fetch: from the repeated texture, from nowhere, from tile 0 (R204). -/
theorem m7Fetch_kinds (g : Regs) (u v : Int) :
    (m7Repeat g = 0 ∨ m7Repeat g = 1) ∨ InTexture u v ∨ (¬ InTexture u v ∧ m7Repeat g = 2) ∨
      (¬ InTexture u v ∧ m7Repeat g = 3) := by
  have hlt : m7Repeat g < 4 := slice_lt g.m7sel 0 2
  omega

end

/-- Tile 0 by its rows of eight words, each with a pixel in its high byte (R205). -/
theorem m7TilePixel_tileZero (m : Memory) (u v : Int) :
    m7TilePixel m 0 (u % 8).toNat (v % 8).toNat =
      (readVram m ((v % 8).toNat * 8 + (u % 8).toNat)).extractLsb' 8 8 := by
  have hu : (u % 8).toNat % 8 = (u % 8).toNat := by omega
  have hv : (v % 8).toNat % 8 = (v % 8).toNat := by omega
  rw [m7TilePixel, hu, hv, Nat.zero_mul, Nat.zero_add]

/-- Settles O52: the position is its own texture coordinate, and inside the texture every repeat mode shows the
texel. -/
theorem mode7IdentityIsDirectSample : Obligations.Mode7IdentityIsDirectSample := by
  intro sc ha hd hb hc hcx hcy hh hv hmosaic
  have hcoord := m7Coord_of_identity ha hd hb hc hcx hcy hh hv
  refine ⟨hcoord, ?_⟩
  rintro x y hx hy t rfl
  have hin : InTexture (x : Int) (y : Int) := by omega
  have hmx : mosaicX sc.regs .bg1 (x : Int) = x := by simp [mosaicX, hmosaic]
  have hmy : mosaicY sc.regs .bg1 y = y := if_pos (.inl hmosaic)
  have hsample : m7Sample sc x y = m7Fetch sc x y := by simp only [m7Sample, hmx, hmy, hcoord]
  rw [hsample, m7Fetch_of_inTexture hin, repeatedTexel_of_inTexture _ hin]
  rfl

/-! ## The words read -/

section
variable {m m' : Memory} (hlow : ∀ a, a < 16384 → readVram m a = readVram m' a)
include hlow

/-- The 256 tiles of 64 words end at word 16384 (R205). -/
theorem m7TilePixel_congr {t : Nat} (ht : t < 256) (u v : Nat) : m7TilePixel m t u v = m7TilePixel m' t u v := by
  rw [m7TilePixel, hlow _ (by omega), m7TilePixel]

/-- The map of 128 rows of 128 words ends at word 16384 (R204). -/
theorem m7MapTile_congr {u v : Nat} (hu : u < 1024) (hv : v < 1024) : m7MapTile m u v = m7MapTile m' u v := by
  rw [m7MapTile, hlow _ (by omega), m7MapTile]

theorem repeatedTexel_congr_memory (u v : Int) : repeatedTexel m u v = repeatedTexel m' u v := by
  have hmap := m7MapTile_congr hlow (u := (u % 1024).toNat) (v := (v % 1024).toNat) (by omega) (by omega)
  have htile : m7MapTile m' (u % 1024).toNat (v % 1024).toNat < 256 := slice_lt _ 0 8
  rw [repeatedTexel, texel, hmap, m7TilePixel_congr hlow htile, repeatedTexel, texel]

end

/-- Settles O54: in each kind of fetch, the words that it reads stand below word 16384. -/
theorem mode7ReadsTheLowerHalfOfVram : Obligations.Mode7ReadsTheLowerHalfOfVram := by
  intro sc sc' u v hregs hlow
  obtain hwrap | hin | ⟨hout, h2⟩ | ⟨hout, h3⟩ := m7Fetch_kinds sc.regs u v
  · rw [m7Fetch_of_wrapping hwrap, m7Fetch_of_wrapping (hregs ▸ hwrap), repeatedTexel_congr_memory hlow]
  · rw [m7Fetch_of_inTexture hin, m7Fetch_of_inTexture hin, repeatedTexel_congr_memory hlow]
  · rw [m7Fetch_outside_of_transparent hout h2, m7Fetch_outside_of_transparent hout (hregs ▸ h2)]
  · rw [m7Fetch_outside_of_tileZero hout h3, m7Fetch_outside_of_tileZero hout (hregs ▸ h3),
      m7TilePixel_congr hlow (by decide)]

/-! ## The candidates -/

theorem m7Main_zero (g : Regs) : m7Main g 0 = none := if_pos rfl

/-- The sub-layer's colour is the pixel without its top bit (R207). -/
theorem m7Sub_eq_none {pix : BitVec 8} (h : pix.toNat % 128 = 0) : m7Sub pix = none := by
  rw [m7Sub, if_pos (by simpa [slice_eq] using h)]

/-- The sub-layer's candidate has the pixel's top bit as priority and the rest as colour (R207). -/
theorem m7Sub_eq_some {pix : BitVec 8} (h : pix.toNat % 128 ≠ 0) :
    ∃ c, m7Sub pix = some c ∧ (c.prio = true ↔ 128 ≤ pix.toNat) ∧ c.cidx.toNat = pix.toNat % 128 ∧
      c.direct = false := by
  have hslice : slice pix 0 7 = pix.toNat % 128 := by simp [slice_eq]
  have hpix := pix.isLt
  refine ⟨_, by rw [m7Sub, if_neg (by rwa [hslice])], ?_, ?_, rfl⟩
  · show pix.getLsbD 7 = true ↔ 128 ≤ pix.toNat
    rw [BitVec.getLsbD, Nat.testBit_eq_decide_div_mod_eq, decide_eq_true_iff]
    omega
  · rw [hslice, BitVec.toNat_ofNat]
    omega

/-- The main layer's pixel as an index into CGRAM (R206). -/
theorem m7Main_of_indexed {g : Regs} {pix : BitVec 8} (hpix : pix ≠ 0) (hindexed : cgDirect g = false) :
    m7Main g pix = some { prio := false, cidx := pix, direct := false, dcol := 0 } := by
  obtain ⟨hzero, -⟩ | ⟨-, hdirect, -⟩ | ⟨-, -, hmain⟩ := m7Main_cases g pix
  · exact absurd hzero hpix
  · exact absurd hdirect (by simp [hindexed])
  · exact hmain

/-- The main layer's pixel as a direct colour, with no palette bits (R206, 41_background_renderer.md R167). -/
theorem m7Main_of_direct {g : Regs} {pix : BitVec 8} (hpix : pix ≠ 0) (hdirect : cgDirect g = true) :
    ∃ c, m7Main g pix = some c ∧ c.prio = false ∧ c.direct = true ∧
      unpack15 c.dcol = { r := 4 * (pix.toNat % 8), g := 4 * (pix.toNat / 8 % 8), b := 8 * (pix.toNat / 64) } := by
  obtain ⟨hcolour, hchannels⟩ := colour_direct (g := g) (pal := 0) (prio := false) ⟨hdirect, rfl, rfl⟩ pix.isLt
  exact ⟨_, if_neg hpix, colour_prio, hcolour, hchannels⟩

section
variable {sc : Scene} {x : Int} {y : Nat}

/-- Where nothing or the pixel 0 is fetched, both layers are transparent (R206, R207). -/
theorem m7Pixel_of_transparent (h : m7Sample sc x y = none ∨ m7Sample sc x y = some 0) :
    m7Pixel sc .bg1 x y = none ∧ m7Pixel sc .bg2 x y = none := by
  have hsub : m7Sub 0 = none := m7Sub_eq_none rfl
  obtain h | h := h
  · simp only [m7Pixel, h, Option.bind_none, ite_self, and_self]
  · simp only [m7Pixel, h, Option.bind_some, m7Main_zero, hsub, ite_self, and_self]

/-- The main layer offers what it makes of the fetched pixel (R206). -/
theorem m7Pixel_bg1_of_sample {pix : BitVec 8} (h : m7Sample sc x y = some pix) :
    m7Pixel sc .bg1 x y = m7Main sc.regs pix := by
  rw [m7Pixel_bg1, h, Option.bind_some]

/-- With `EXTBG` the sub-layer offers what it makes of the fetched pixel (R207). -/
theorem m7Pixel_bg2_of_sample {pix : BitVec 8} (h : m7Sample sc x y = some pix) (hext : m7Extbg sc.regs = true) :
    m7Pixel sc .bg2 x y = m7Sub pix := by
  rw [m7Pixel_bg2_on sc x y hext, h, Option.bind_some]

/-- In mode 7 a layer that its table entry makes present offers its Mode 7 pixel (41_background_renderer.md R151). -/
theorem layerPixel_of_mode_seven (hmode : bgMode sc.regs = 7) (l : Bg) :
    layerPixel sc l x y =
      if layerPresent (layerDef (modeRow sc.cfg 7) l) sc.regs = false then none else m7Pixel sc l x y := by
  simp only [layerPixel, hmode, if_true]

/-- Without `EXTBG` there is no sub-layer, whatever the table (R207). -/
theorem layerPixel_bg2_of_no_extbg (hmode : bgMode sc.regs = 7) (hext : m7Extbg sc.regs = false) :
    layerPixel sc .bg2 x y = none := by
  rw [layerPixel_of_mode_seven hmode, m7Pixel_bg2_off sc x y hext, ite_self]

/-- With the default table mode 7 has the main layer and its sub-layer (41_background_renderer.md R152). -/
theorem layerPixel_of_defaultModeDef (hmode : bgMode sc.regs = 7) (htable : sc.cfg.modeDef = Config.defaultModeDef) :
    layerPixel sc .bg1 x y = m7Pixel sc .bg1 x y ∧ layerPixel sc .bg2 x y = m7Pixel sc .bg2 x y ∧
      layerPixel sc .bg3 x y = none ∧ layerPixel sc .bg4 x y = none := by
  have hrow : modeRow sc.cfg 7 = ⟨.bpp8, .subIfExtbg, .absent, .absent, false⟩ := by
    rw [modeRow, htable]
    rfl
  have hlayer (l : Bg) := layerPixel_of_mode_seven (x := x) (y := y) hmode l
  simp only [hrow] at hlayer
  refine ⟨hlayer .bg1, ?_, hlayer .bg3, hlayer .bg4⟩
  cases hext : m7Extbg sc.regs with
  | true => exact (hlayer .bg2).trans (if_neg (by simp [layerDef, layerPresent, hext]))
  | false => rw [layerPixel_bg2_of_no_extbg hmode hext, m7Pixel_bg2_off sc x y hext]

end

/-- Settles O53: the transform, the candidates of the fetched pixel, and each kind of fetch. -/
theorem mode7Transform : Obligations.Mode7Transform := by
  refine ⟨fun g x y dx dy => m7Coord_eq, ?candidates, fun g x y => m7Coord_fst_of_minus_half,
    fun g x y ha hb hc hd => m7Coord_of_zero_matrix ha hb hc hd x y, ?outside, ?agree, ?wrap⟩
  case candidates =>
    intro sc x sx y n ph sy q hn hph hsx hsy hq
    have hsample : m7Sample sc x y = q := by
      subst hn hph hsx hsy hq
      rfl
    refine ⟨fun hnone => m7Pixel_of_transparent (hsample ▸ hnone), fun pix hpix hne => ?_,
      layerPixel_bg2_of_no_extbg, layerPixel_of_defaultModeDef⟩
    rw [hpix] at hsample
    rw [m7Pixel_bg1_of_sample hsample]
    refine ⟨m7Main_of_indexed hne, m7Main_of_direct hne, fun hext hzero => ?_, fun hext hcolour => ?_⟩
    · rw [m7Pixel_bg2_of_sample hsample hext, m7Sub_eq_none hzero]
    · rw [m7Pixel_bg2_of_sample hsample hext]
      exact m7Sub_eq_some hcolour
  case outside =>
    intro sc u v hout
    refine ⟨m7Fetch_outside_of_transparent hout, fun h3 => ?_⟩
    rw [m7Fetch_outside_of_tileZero hout h3, m7TilePixel_tileZero]
  case agree =>
    intro sc sc' u v hmem h0
    rw [m7Fetch_of_wrapping (sc := sc') (.inl h0), ← hmem]
    exact ⟨m7Fetch_of_inTexture, fun h1 => m7Fetch_of_wrapping (.inr h1)⟩
  case wrap =>
    intro sc u v h0
    simp only [m7Fetch_of_wrapping (.inl h0), Option.some_inj]
    exact ⟨repeatedTexel_congr _ (by omega) rfl, repeatedTexel_congr _ rfl (by omega)⟩

end Sys2Proof.Machine
end

section
/-! Windows (44_compositor.md R226, R227): membership of a position, and what a window set makes of it. -/

namespace Sys2Proof.Machine

/-- Membership is one comparison of the clamped position with both edges (R226). -/
theorem inWindow_eq_decide (left right : BitVec 8) (x : Int) :
    inWindow left right x = decide ((left.toNat : Int) ≤ windowX x ∧ windowX x ≤ (right.toNat : Int)) :=
  (Bool.decide_and _ _).symm

/-- A window whose left edge is right of its right edge contains nothing (R226). -/
theorem inWindow_of_right_lt_left {left right : BitVec 8} (h : right.toNat < left.toNat) (x : Int) :
    inWindow left right x = false := by
  rw [inWindow_eq_decide]
  exact decide_eq_false (by omega)

section
variable {sel : BitVec 6} (in1 in2 : Bool)

/-- With no window enabled the set contains nothing (R227). -/
theorem windowSelect_neither (h1 : sel.getLsbD 1 = false) (h2 : sel.getLsbD 3 = false) :
    windowSelect sel in1 in2 = false := by
  simp only [windowSelect, h1, h2]

/-- With window 1 alone the set is that window, inverted by `W1INV` (R227). -/
theorem windowSelect_first (h1 : sel.getLsbD 1 = true) (h2 : sel.getLsbD 3 = false) :
    windowSelect sel in1 in2 = Bool.xor in1 (sel.getLsbD 0) := by
  simp only [windowSelect, h1, h2]

/-- With window 2 alone the set is that window, inverted by `W2INV` (R227). -/
theorem windowSelect_second (h1 : sel.getLsbD 1 = false) (h2 : sel.getLsbD 3 = true) :
    windowSelect sel in1 in2 = Bool.xor in2 (sel.getLsbD 2) := by
  simp only [windowSelect, h1, h2]

/-- With both windows the set combines them by `LOGIC` (R227). -/
theorem windowSelect_both (h1 : sel.getLsbD 1 = true) (h2 : sel.getLsbD 3 = true) :
    windowSelect sel in1 in2 =
      windowLogic (sel.extractLsb' 4 2).toNat (Bool.xor in1 (sel.getLsbD 0)) (Bool.xor in2 (sel.getLsbD 2)) := by
  simp only [windowSelect, h1, h2, slice]

end

/-- XNOR is the negation of XOR (R227). -/
theorem windowLogic_three (a b : Bool) : windowLogic 3 a b = !(Bool.xor a b) := by
  cases a <;> cases b <;> rfl

/-- Settles O43: the set of the layer is looked up, then each clause is one case of the enables. (`windowLogic` is the
model's function of `LOGIC`.) -/
theorem windowLogic_holds : Obligations.WindowLogic := by
  intro g k x xw a b s hset hxw ha hb
  have hs : wsel g k = s := by
    obtain ⟨rfl, rfl⟩ | ⟨rfl, rfl⟩ | ⟨rfl, rfl⟩ | ⟨rfl, rfl⟩ | ⟨rfl, rfl⟩ | ⟨rfl, rfl⟩ := hset <;> rfl
  have hclamp : windowX x = xw := hxw.symm
  rw [← hclamp, ← inWindow_eq_decide] at ha hb
  rw [win, hs]
  subst ha hb
  refine ⟨windowSelect_neither _ _, windowSelect_first _ _, windowSelect_second _ _, fun h1 h2 => ?both,
    fun h => inWindow_of_right_lt_left h x⟩
  case both =>
    rw [windowSelect_both _ _ h1 h2]
    refine ⟨fun h => ?_, fun h => ?_, fun h => ?_, fun h => ?_⟩ <;> rw [h]
    · rfl
    · rfl
    · rfl
    · exact windowLogic_three _ _

end Sys2Proof.Machine
end

section
/-! The compositor (44_compositor.md R216 to R228): which cells are offered at a position and with which rank, which of
them stays, and the picture of a main screen that has only its backdrop. -/

namespace Sys2Proof.Machine

/-! ## Ranks -/

/-- The modes that share a row of RANK (R222). -/
theorem rankRow_eq (t : RankTable) (g : Regs) :
    rankRow t g =
      if bgMode g = 0 then t.m0
      else if bgMode g = 1 then (if g.bgmode.getLsbD 3 then t.m1p else t.m1)
      else if bgMode g ≤ 4 then t.m2
      else if bgMode g ≤ 6 then t.m5 else t.m7 := by
  have hlt : bgMode g < 8 := slice_lt g.bgmode 0 3
  unfold rankRow
  interval_cases bgMode g <;> rfl

/-- In a table of distinct ranks the row in use has distinct ranks (R222). -/
theorem rankRow_distinct {t : RankTable} (h : t.distinct = true) (g : Regs) : (rankRow t g).distinct = true := by
  simp only [RankTable.distinct, Bool.and_eq_true] at h
  obtain ⟨⟨⟨⟨⟨h0, h1⟩, h1p⟩, h2⟩, h5⟩, h7⟩ := h
  unfold rankRow
  repeat' split
  all_goals assumption

/-! ## Offers -/

/-- What is offered, with the visibility of the layers written out (R218, R225). -/
theorem mem_offersAt_iff (sc : Scene) (s : Screen) (o : Option ObjPixel) (x : Int) (y : Nat) (c : ScreenCell) :
    c ∈ offersAt sc s o x y ↔
      (∃ l p, (screenEn sc.regs s).getLsbD l.num = true ∧
        ¬ ((screenWinEn sc.regs s).getLsbD l.num = true ∧ win sc.regs (.bg l) x = true) ∧
        layerPixel sc l x y = some p ∧ c = bgCell sc l p) ∨
      (∃ q, (screenEn sc.regs s).getLsbD 4 = true ∧
        ¬ ((screenWinEn sc.regs s).getLsbD 4 = true ∧ win sc.regs .obj x = true) ∧ o = some q ∧ c = objCell sc q) := by
  simp only [mem_offersAt, mem_bgOffers, mem_objOffers, layerVisible_iff, Src.num, and_assoc, exists_and_left]

/-- The ranks a background layer can be offered with, of which it takes at most one (R218, R222). -/
theorem bgOffers_ranks_sublist (sc : Scene) (s : Screen) (x : Int) (y : Nat) (l : Bg) :
    ((bgOffers sc s x y l).map ScreenCell.z).Sublist
      [bgRank (rankRow sc.cfg.rank sc.regs) l false, bgRank (rankRow sc.cfg.rank sc.regs) l true] := by
  unfold bgOffers
  split
  · cases layerPixel sc l x y with
    | none => exact List.nil_sublist _
    | some p =>
      refine List.singleton_sublist.2 ?_
      cases hp : p.prio <;> simp [bgCell, hp]
  · exact List.nil_sublist _

/-- The ranks the sprite layer can be offered with, of which it takes at most one (R218, R222). -/
theorem objOffers_ranks_sublist (sc : Scene) (s : Screen) (x : Int) (o : Option ObjPixel) :
    ((objOffers sc s x o).map ScreenCell.z).Sublist
      ([0, 1, 2, 3].map (objRank (rankRow sc.cfg.rank sc.regs))) := by
  unfold objOffers
  split
  · cases o with
    | none => exact List.nil_sublist _
    | some q =>
      have hprio : ∀ p : BitVec 2, p ∈ [0, 1, 2, 3] := by decide
      exact List.singleton_sublist.2 (List.mem_map_of_mem (hprio q.prio))
  · exact List.nil_sublist _

/-- The ranks offered at a position stand in the row in use, each entry used at most once (R218, R222). -/
theorem offersAt_ranks_sublist (sc : Scene) (s : Screen) (o : Option ObjPixel) (x : Int) (y : Nat) :
    ((offersAt sc s o x y).map ScreenCell.z).Sublist (rankRow sc.cfg.rank sc.regs).entries := by
  simp only [offersAt, List.map_append]
  have hbg := bgOffers_ranks_sublist sc s x y
  exact ((((hbg .bg1).append (hbg .bg2)).append (hbg .bg3)).append (hbg .bg4)).append
    (objOffers_ranks_sublist sc s x o)

/-- Under distinct ranks no two cells offered at a position have the same listed rank (R222, R224). -/
theorem offersAt_eq_of_rank_eq {sc : Scene} (hdistinct : sc.cfg.rank.distinct = true) {s : Screen}
    {o : Option ObjPixel} {x : Int} {y : Nat} {c c' : ScreenCell} (hc : c ∈ offersAt sc s o x y)
    (hc' : c' ∈ offersAt sc s o x y) (hz : c.z = c'.z) (hpos : 0 < c.z) : c = c' := by
  have hnodup : ((offersAt sc s o x y).filter (fun c => c.z != 0)).map ScreenCell.z |>.Nodup := by
    have hrow := of_decide_eq_true (rankRow_distinct hdistinct sc.regs)
    have hranks := (offersAt_ranks_sublist sc s o x y).filter (fun z => z != 0)
    rw [List.filter_map] at hranks
    exact hrow.sublist hranks
  have hlisted {d : ScreenCell} (hd : d ∈ offersAt sc s o x y) (h0 : 0 < d.z) :
      d ∈ (offersAt sc s o x y).filter (fun c => c.z != 0) :=
    List.mem_filter.2 ⟨hd, bne_iff_ne.2 h0.ne'⟩
  exact List.inj_on_of_nodup_map hnodup (hlisted hc hpos) (hlisted hc' (hz ▸ hpos)) hz

/-! ## The cell that stays -/

/-- `w` is what the offers `cs` leave of the cell `b`: `b` itself or an offer above it, and nothing ranks above `w`. -/
structure IsWinner (b : ScreenCell) (cs : List ScreenCell) (w : ScreenCell) : Prop where
  eq_or_mem : w = b ∨ (w ∈ cs ∧ b.z < w.z)
  start_le : b.z ≤ w.z
  offer_le : ∀ c ∈ cs, c.z ≤ w.z

/-- Offering cells one after another leaves a winner (R224). -/
theorem isWinner_foldl_offer (b : ScreenCell) (cs : List ScreenCell) : IsWinner b cs (cs.foldl offer b) := by
  induction cs generalizing b with
  | nil => exact ⟨.inl rfl, le_rfl, by simp⟩
  | cons c cs ih =>
    obtain ⟨hmem, hstart, hle⟩ := ih (offer b c)
    rw [List.foldl_cons]
    obtain ⟨hoffer, hz⟩ | ⟨hoffer, hz⟩ := offer_cases b c <;> rw [hoffer] at hmem hstart hle ⊢
    · refine ⟨hmem.imp_right (And.imp_left (List.mem_cons_of_mem c)), hstart, ?_⟩
      exact List.forall_mem_cons.2 ⟨hz.trans hstart, hle⟩
    · refine ⟨.inr ⟨?_, hz.trans_le hstart⟩, hz.le.trans hstart, List.forall_mem_cons.2 ⟨hstart, hle⟩⟩
      exact List.mem_cons.2 (hmem.imp_right And.left)

/-- Where no two offers above the cell have the same rank there is one winner, whatever the order (R224). -/
theorem IsWinner.eq_of_perm {b w w' : ScreenCell} {cs cs' : List ScreenCell} (h : IsWinner b cs w)
    (h' : IsWinner b cs' w') (hperm : cs.Perm cs')
    (hunique : ∀ c ∈ cs', ∀ c' ∈ cs', c.z = c'.z → b.z < c.z → c = c') : w = w' := by
  have hmem (c : ScreenCell) : c ∈ cs ↔ c ∈ cs' := hperm.mem_iff
  obtain rfl | ⟨hw, hbw⟩ := h.eq_or_mem <;> obtain rfl | ⟨hw', hbw'⟩ := h'.eq_or_mem
  · rfl
  · exact absurd (h.offer_le w' ((hmem w').2 hw')) (Nat.not_le.2 hbw')
  · exact absurd (h'.offer_le w ((hmem w).1 hw)) (Nat.not_le.2 hbw)
  · have hz : w.z = w'.z := le_antisymm (h'.offer_le w ((hmem w).1 hw)) (h.offer_le w' ((hmem w').2 hw'))
    exact hunique w ((hmem w).1 hw) w' hw' hz hbw

@[simp] theorem backdrop_z (g : Regs) (s : Screen) : (backdrop g s).z = 0 := by cases s <;> rfl
@[simp] theorem backdrop_src (g : Regs) (s : Screen) : (backdrop g s).src = .backdrop := by cases s <;> rfl

/-- The final cell is the winner over the backdrop (R216, R218). -/
theorem isWinner_mergeCell (sc : Scene) (s : Screen) (o : Option ObjPixel) (x : Int) (y : Nat) :
    IsWinner (backdrop sc.regs s) (offersAt sc s o x y) (mergeCell sc s o x y) :=
  isWinner_foldl_offer _ _

/-- The final cell is the backdrop or one of the offers (R216, R224). -/
theorem mergeCell_eq_backdrop_or_mem (sc : Scene) (s : Screen) (o : Option ObjPixel) (x : Int) (y : Nat) :
    mergeCell sc s o x y = backdrop sc.regs s ∨ mergeCell sc s o x y ∈ offersAt sc s o x y :=
  (isWinner_mergeCell sc s o x y).eq_or_mem.imp_right And.left

/-- Settles O45: the winner is unique, as a candidate above the backdrop has a listed rank. -/
theorem winnerHasMaximalRank : Obligations.WinnerHasMaximalRank := by
  refine ⟨fun sc s o x y cs hdistinct hperm => ?_,
    fun cell cand => ⟨fun h => if_pos h, fun h => if_neg (Nat.not_lt.2 h)⟩⟩
  have hwinner := isWinner_mergeCell sc s o x y
  refine ⟨?_, mergeCell_eq_backdrop_or_mem sc s o x y, hwinner.offer_le⟩
  refine (isWinner_foldl_offer _ cs).eq_of_perm hwinner hperm fun c hc c' hc' hz hpos => ?_
  rw [backdrop_z] at hpos
  exact offersAt_eq_of_rank_eq hdistinct hc hc' hz hpos

/-- Settles O44: the offers are those of `mem_offersAt_iff`, with the ranks of the row in use; a shown layer is not the
backdrop's, so its cell was offered. -/
theorem offeredCellsAndShownLayers : Obligations.OfferedCellsAndShownLayers := by
  refine ⟨?offered, ⟨rfl, rfl, rfl, rfl, rfl, rfl, fun _ => rfl⟩, fun _ => rfl, rfl, rfl, rfl, rfl, rfl, rfl, ?shown⟩
  case offered =>
    intro sc s o x y en wen r zbg zobj hscreen hr hzbg hzobj c
    have hregs : en = screenEn sc.regs s ∧ wen = screenWinEn sc.regs s := by
      obtain ⟨rfl, rfl, rfl⟩ | ⟨rfl, rfl, rfl⟩ := hscreen <;> exact ⟨rfl, rfl⟩
    obtain ⟨rfl, rfl⟩ := hregs
    have hrow : rankRow sc.cfg.rank sc.regs = r := (rankRow_eq _ _).trans hr.symm
    have hbg (l : Bg) (p : Bool) : zbg l p = bgRank r l p := by
      obtain ⟨h1, h2, h3, h4⟩ := hzbg p
      cases l <;> assumption
    have hobj (p : BitVec 2) : zobj p = objRank r p := by
      obtain ⟨h0, h1, h2, h3⟩ := hzobj
      have hp : p = 0 ∨ p = 1 ∨ p = 2 ∨ p = 3 := by revert p; decide
      obtain rfl | rfl | rfl | rfl := hp <;> assumption
    simp only [mem_offersAt_iff, bgCell, objCell, hrow, hbg, hobj]
  case shown =>
    intro sc s o x y
    obtain hback | hmem := mergeCell_eq_backdrop_or_mem sc s o x y
    · simp [hback]
    · obtain ⟨l, p, hen, hwin, hpx, hcell⟩ | ⟨q, hen, hwin, hpx, hcell⟩ := (mem_offersAt_iff _ _ _ _ _ _).1 hmem
      · rw [hcell]
        refine ⟨fun k hk => ?_, fun hk => nomatch hk⟩
        obtain rfl : l = k := Src.bg.inj hk
        exact ⟨hen, hwin, by simp [hpx]⟩
      · rw [hcell]
        exact ⟨fun _ hk => (nomatch hk), fun _ => ⟨hen, hwin, by simp [hpx]⟩⟩

/-! ## A screen with nothing enabled -/

/-- With no layer enabled nothing is offered, and the backdrop stays (R216, R217, R218). -/
theorem mergeCell_of_nothing_enabled {sc : Scene} {s : Screen} (hen : screenEn sc.regs s = 0) (o : Option ObjPixel)
    (x : Int) (y : Nat) : mergeCell sc s o x y = backdrop sc.regs s := by
  obtain hback | hmem := mergeCell_eq_backdrop_or_mem sc s o x y
  · exact hback
  · simp [mem_offersAt_iff, hen] at hmem

/-- With no layer enabled every cell of the screen's buffer is its backdrop (R216, R217). -/
theorem eq_backdrop_of_mem_buildScreen {sc : Scene} {s : Screen} (hen : screenEn sc.regs s = 0)
    {ob : List (Option ObjPixel)} {y : Nat} {c : ScreenCell} (hc : c ∈ buildScreen sc s ob y) :
    c = backdrop sc.regs s := by
  obtain ⟨col, -, rfl⟩ := List.mem_map.1 hc
  exact mergeCell_of_nothing_enabled hen _ _ _

/-- Every pixel of a row is the output of a cell of each screen (45_color_math.md R250). -/
theorem exists_outputPixel_of_mem_lineRow {sc : Scene} {n : Nat} {px : Pixel} (hpx : px ∈ lineRow sc n) :
    ∃ m ∈ lineMain sc n, ∃ b ∈ lineSub sc n, ∃ x, px = outputPixel sc m b x := by
  obtain ⟨col, hcol, rfl⟩ := List.mem_map.1 hpx
  have hmem (cs : List ScreenCell) (d : ScreenCell) (hlen : cs.length = sc.cfg.width) : cs.getD col d ∈ cs := by
    rw [List.getD_eq_getElem _ _ (hlen ▸ List.mem_range.1 hcol)]
    exact List.getElem_mem _
  exact ⟨_, hmem _ _ (lineMain_length sc n), _, hmem _ _ (lineSub_length sc n), _, rfl⟩

/-- The main screen's backdrop is entry 0 of CGRAM (R217, 45_color_math.md R241). -/
theorem resolve_backdrop_main (m : Memory) (g : Regs) : resolve m (backdrop g .main) = unpack15 (readCgram m 0) := rfl

/-- The sub screen's backdrop is `FIXEDCOLOR` (R217, 45_color_math.md R245). -/
theorem resolve_backdrop_sub (m : Memory) (g : Regs) : resolve m (backdrop g .sub) = unpack15 g.fixedcolor := rfl

/-- Without clipping the main colour is that of the cell (45_color_math.md R242). -/
theorem mainColour_of_no_clip {sc : Scene} (hclip : cgClip sc.regs = 0) (m : ScreenCell) (x : Int) :
    mainColour sc m x = resolve sc.mem m := by
  simp [mainColour, clipAt, hclip, region]

/-- Colour math applies to the backdrop iff it is enabled there and not prevented (45_color_math.md R243). -/
theorem mathOn_backdrop (g : Regs) (s : Screen) (prevent : Bool) :
    mathOn g (backdrop g s) prevent = (g.cgadsub.getLsbD 5 && !prevent) := by
  simp [mathOn, mathEn, layerBit, Src.num]

/-- Where colour math is off for the backdrop it shows as it is (45_color_math.md R243, R250). -/
theorem outputPixel_backdrop_of_math_off {sc : Scene} (hclip : cgClip sc.regs = 0)
    (hoff : sc.regs.cgadsub.getLsbD 5 = false) (b : ScreenCell) (x : Int) :
    outputPixel sc (backdrop sc.regs .main) b x = brightPixel sc.regs (unpack15 (readCgram sc.mem 0)) := by
  rw [outputPixel, mixColour, mathOn_backdrop, hoff, Bool.false_and, if_neg Bool.false_ne_true,
    mainColour_of_no_clip hclip, resolve_backdrop_main]

/-- Where colour math is on for the backdrop, the backdrops of the two screens are blended (45_color_math.md R245,
R250). -/
theorem outputPixel_backdrop_of_math_on {sc : Scene} (hclip : cgClip sc.regs = 0) (hprevent : cgPrevent sc.regs = 0)
    (hon : sc.regs.cgadsub.getLsbD 5 = true) (x : Int) :
    outputPixel sc (backdrop sc.regs .main) (backdrop sc.regs .sub) x =
      brightPixel sc.regs (blend sc.regs (unpack15 (readCgram sc.mem 0)) (unpack15 sc.regs.fixedcolor)) := by
  have hallowed : preventAt sc.regs x = false := by simp [preventAt, hprevent, region]
  rw [outputPixel, mixColour, mathOn_backdrop, hon, hallowed, Bool.not_false, Bool.true_and, if_pos rfl,
    mainColour_of_no_clip hclip, resolve_backdrop_main, resolve_backdrop_sub]

/-- Settles O42: both screens hold their backdrops only, and every pixel of the row is made of one cell of each. -/
theorem backdropPicture : Obligations.BackdropPicture := by
  intro n s hn
  refine ⟨_, exec_renderLine_next n s hn, ?_⟩
  simp only [respond_mainbuf, respond_subbuf, respond_cfg, respond_fb, line_mainbuf, line_subbuf, line_cfg, line_fb,
    fbRow_writeRow_same]
  have hmain (htm : s.regs.tm = 0) : ∀ m ∈ lineMain s.scene n.toNat, m = backdrop s.regs .main :=
    fun _ => eq_backdrop_of_mem_buildScreen (sc := s.scene) (s := .main) htm
  have hsub (hts : s.regs.ts = 0) : ∀ b ∈ lineSub s.scene n.toNat, b = backdrop s.regs .sub :=
    fun _ => eq_backdrop_of_mem_buildScreen (sc := s.scene) (s := .sub) hts
  refine ⟨hmain, hsub, fun htm hclip hoff px hpx => ?mathOff,
    fun htm hts hregions hon a f mix ha hf hmix px hpx => ?mathOn⟩
  case mathOff =>
    obtain ⟨m, hm, b, -, x, rfl⟩ := exists_outputPixel_of_mem_lineRow hpx
    obtain rfl := hmain htm m hm
    exact outputPixel_backdrop_of_math_off (sc := s.scene) (congrArg BitVec.toNat hclip) hoff b x
  case mathOn =>
    obtain ⟨m, hm, b, hb, x, rfl⟩ := exists_outputPixel_of_mem_lineRow hpx
    obtain rfl := hmain htm m hm
    obtain rfl := hsub hts b hb
    subst ha hf hmix
    have hzero : slice s.regs.cgwsel 4 4 = 0 := congrArg BitVec.toNat hregions
    rw [slice_eq] at hzero
    have hclip : cgClip s.regs = 0 := by rw [cgClip, slice_eq]; omega
    have hprevent : cgPrevent s.regs = 0 := by rw [cgPrevent, slice_eq]; omega
    exact outputPixel_backdrop_of_math_on (sc := s.scene) hclip hprevent hon x

end Sys2Proof.Machine
end

section
/-! Colour math and brightness (45_color_math.md R241 to R250): the pixel of a position channel by channel, the laws of
the blend, and the brightness scale. -/

namespace Sys2Proof.Machine

/-! ## The pixel of a position -/

/-- `Region` is the only function with the four meanings of `CLIP` and `PREVENT` (R242). -/
theorem eq_region_of_meanings {part : Nat → Bool → Bool}
    (h : ∀ w, part 0 w = false ∧ part 1 w = !w ∧ part 2 w = w ∧ part 3 w = true) {f : Nat} (hf : f < 4) (w : Bool) :
    part f w = region f w := by
  obtain ⟨h0, h1, h2, h3⟩ := h w
  interval_cases f <;> assumption

/-- Colour math applies where the source's enable is set, nothing prevents it, and a sprite is of palette groups 4 to 7
(R243). -/
theorem mathOn_iff (g : Regs) (m : ScreenCell) (prevent : Bool) :
    mathOn g m prevent = true ↔
      g.cgadsub.getLsbD m.src.num = true ∧ prevent = false ∧ (m.src = .obj → m.pal47 = true) := by
  simp [mathOn, mathEn, layerBit, and_assoc, imp_iff_not_or]

/-- One channel of the pixel, from the main and the sub colour, with colour math applied or not (R244, R248, R250). -/
def outputChannel (g : Regs) (math : Bool) (c1 c2 : Nat) : Byte :=
  BitVec.ofNat 8 (brightChannel g.bright.toNat (if math then blendChannel (mathSub g) (mathHalf g) c1 c2 else c1))

/-- The channels of a pixel do not meet (R244, R248, R250). -/
theorem outputPixel_eq_channels (sc : Scene) (m b : ScreenCell) (x : Int) :
    outputPixel sc m b x =
      { r := outputChannel sc.regs (mathOn sc.regs m (preventAt sc.regs x)) (mainColour sc m x).r (resolve sc.mem b).r
        g := outputChannel sc.regs (mathOn sc.regs m (preventAt sc.regs x)) (mainColour sc m x).g (resolve sc.mem b).g
        b := outputChannel sc.regs (mathOn sc.regs m (preventAt sc.regs x)) (mainColour sc m x).b (resolve sc.mem b).b
        a := 255 } := by
  unfold outputPixel mixColour
  cases mathOn sc.regs m (preventAt sc.regs x) <;> rfl

/-- A scanline's row at a column is the output of the two cells there, which the buffers hold (R250). -/
theorem exists_lineRow_get (sc : Scene) (n : Nat) {col : Nat} (hcol : col < sc.cfg.width) :
    ∃ m b, (lineMain sc n)[col]? = some m ∧ (lineSub sc n)[col]? = some b ∧
      (lineRow sc n)[col]? = some (outputPixel sc m b (columnX sc.cfg col)) := by
  have hm := List.getElem?_eq_getElem (hcol.trans_eq (lineMain_length sc n).symm)
  have hb := List.getElem?_eq_getElem (hcol.trans_eq (lineSub_length sc n).symm)
  exact ⟨_, _, hm, hb, outputRow_get sc _ _ col _ _ hcol hm hb⟩

/-- The frame buffer's pixel in a row just written is the row's. -/
theorem fbPixel_writeRow_same (c : Config) (fb : FrameBuf) (y : Nat) {row : Row} {col : Nat} {p : Pixel}
    (h : row[col]? = some p) : fbPixel c (writeRow c fb y row) y col = p := by
  simp [fbPixel, h]

/-- Settles O39: the cells of the column, then the pixel channel by channel; the two regions and the condition of colour
math are the model's. (`outputPixel` is the model's function of a position.) -/
theorem outputPixel_holds : Obligations.OutputPixel := by
  intro n s col hn hcol
  obtain ⟨m, b, hm, hb, hpx⟩ := exists_lineRow_get s.scene n.toNat hcol
  refine ⟨_, m, b, exec_renderLine_next n s hn, by simpa using hm, by simpa using hb, ?_⟩
  rintro cw clip prevent part v1 v2 c1 c2 px hpart rfl hclip hprevent rfl rfl hc1 rfl rfl
  obtain rfl : clip = clipAt s.regs (columnX s.cfg col) :=
    hclip.trans (eq_region_of_meanings hpart (slice_lt s.regs.cgwsel 6 2) _)
  obtain rfl : prevent = preventAt s.regs (columnX s.cfg col) :=
    hprevent.trans (eq_region_of_meanings hpart (slice_lt s.regs.cgwsel 4 2) _)
  obtain rfl : c1 = mainColour s.scene m (columnX s.cfg col) := hc1
  simp only [respond_cfg, respond_fb, line_cfg, line_fb, ← mathOn_iff]
  exact (fbPixel_writeRow_same _ _ _ hpx).trans (outputPixel_eq_channels _ _ _ _)

/-! ## The laws of the blend -/

/-- Clamping to a channel, for numbers that may be negative (R244). -/
theorem toNat_clamp_channel (t : Int) : (clamp t 0 31).toNat = min 31 t.toNat := by
  unfold clamp
  split
  · omega
  · split <;> omega

section
variable (c1 c2 : Nat)

/-- Addition saturates (R244, R246). -/
theorem blendChannel_add : blendChannel false false c1 c2 = min 31 (c1 + c2) :=
  toNat_clamp_channel (c1 + c2)

/-- The sum is halved before it is clamped (R244, R246). -/
theorem blendChannel_add_half : blendChannel false true c1 c2 = min 31 ((c1 + c2) / 2) :=
  toNat_clamp_channel ((c1 + c2) / 2)

/-- A negative difference becomes 0, as the difference of natural numbers does (R244, R246). -/
theorem blendChannel_sub : blendChannel true false c1 c2 = min 31 (c1 - c2) := by
  have hdiff : ((c1 : Int) - c2).toNat = c1 - c2 := by omega
  exact (toNat_clamp_channel _).trans (by rw [if_neg Bool.false_ne_true, if_pos rfl, hdiff])

/-- Half of a negative difference becomes 0 as well (R244, R246). -/
theorem blendChannel_sub_half : blendChannel true true c1 c2 = min 31 ((c1 - c2) / 2) := by
  have hhalf : (asr ((c1 : Int) - c2) 1).toNat = (c1 - c2) / 2 := by
    rw [asr]
    omega
  exact (toNat_clamp_channel _).trans (by rw [if_pos rfl, if_pos rfl, hhalf])

/-- Every result is a channel, whatever the operands (R244, R246). -/
theorem blendChannel_le (sub half : Bool) : blendChannel sub half c1 c2 ≤ 31 :=
  (toNat_clamp_channel _).trans_le (min_le_left _ _)

end

/-- Settles O40: on channels the upper clamp acts in plain addition only. -/
theorem colourMathLaws : Obligations.ColourMathLaws := by
  intro c1 c2 h1 h2
  refine ⟨blendChannel_add c1 c2, ?addHalf, ?sub, ?subHalf, blendChannel_le c1 c2, fun hsum => ?inverse⟩
  case addHalf => exact (blendChannel_add_half c1 c2).trans (min_eq_right (by omega))
  case sub => exact (blendChannel_sub c1 c2).trans (min_eq_right (by omega))
  case subHalf => exact (blendChannel_sub_half c1 c2).trans (min_eq_right (by omega))
  case inverse =>
    rw [blendChannel_add, blendChannel_sub]
    omega

/-! ## Brightness -/

/-- A brightness level does not raise a channel above its range (R248). -/
theorem scaled_le {l c : Nat} (hl : l ≤ 15) (hc : c ≤ 31) : c * l / 15 ≤ 31 := by
  have hproduct : c * l ≤ 31 * 15 := Nat.mul_le_mul hc hl
  omega

/-- Widening a channel appends its upper three bits (R248). -/
theorem widened_eq_append {c : Nat} (hc : c ≤ 31) :
    BitVec.ofNat 8 (8 * c + c / 4) = BitVec.ofNat 5 c ++ (BitVec.ofNat 5 c).extractLsb' 2 3 := by
  have hchannel : c % 2 ^ 5 = c := Nat.mod_eq_of_lt (by omega)
  have hwidened : (8 * c + c / 4) % 2 ^ 8 = 8 * c + c / 4 := Nat.mod_eq_of_lt (by omega)
  apply BitVec.eq_of_toNat_eq
  rw [BitVec.toNat_append, ← Nat.shiftLeft_add_eq_or_of_lt (BitVec.isLt _)]
  simp only [BitVec.toNat_ofNat, BitVec.extractLsb'_toNat, Nat.shiftLeft_eq, Nat.shiftRight_eq_div_pow,
    hchannel, hwidened]
  omega

/-- Settles O41: the scaled channel stays in range, so its widening is the bit string. -/
theorem brightnessScale : Obligations.BrightnessScale := by
  intro l c hl hc
  have hscaled := scaled_le hl hc
  refine ⟨hscaled, rfl, widened_eq_append hscaled, ?_, ?_⟩
  · rw [brightChannel, Nat.mul_div_cancel c (by decide)]
  · rw [brightChannel, Nat.mul_zero]

end Sys2Proof.Machine
end

section
/-! The register write commands (46_register_write_commands.md R260 to R308): each is `AcceptWrite` of its register, so
its tag and the queue alone decide the response, and a write that is applied replaces that register by the low bits of
the value. -/

namespace Sys2Proof.Machine

/-- A register write tagged `NEXT` replaces the register at once (R260). -/
theorem exec_regInstr_now {s : State} {eff : Tag} (hnow : tagNow s eff) (r : RegName)
    (val : BitVec 16) : exec (regInstr r eff val) s = .next (respond (s.withRegs (setReg s.regs r val)) .ok) := by
  rw [exec_regInstr, acceptWrite_of_tagNow _ hnow, applyAct_reg]

/-- The response of `AcceptWrite` depends on the tag and the queue, not on what is written (R261;
40_memory_write_commands.md R140). -/
theorem acceptWrite_resp_congr (eff : Tag) (a a' : WriteAct) (s : State) :
    (acceptWrite eff a s).resp = (acceptWrite eff a' s).resp := by
  obtain ⟨ha, hbad⟩ | ⟨ha, heff, hlines⟩ | ⟨ha, hnext, hlines, hfull⟩ | ⟨ha, hnext, hlines, hroom⟩ :=
    acceptWrite_cases eff a s <;> rw [ha]
  · rw [acceptWrite_badTag eff a' s hbad]
  · rw [acceptWrite_now eff a' s heff hlines, respond_resp, respond_resp]
  · rw [acceptWrite_full eff a' s hnext hlines hfull]
  · rw [acceptWrite_queued eff a' s hnext hlines hroom, respond_resp, respond_resp]

/-- Settles O23: the read-back laws of the register file, and a response that does not depend on the act. -/
theorem registerValuesAreTruncated : Obligations.RegisterValuesAreTruncated := by
  intro r eff val s
  refine ⟨fun hnow => ?_, fun val' => ?_⟩
  · exact ⟨_, exec_regInstr_now hnow r val, getReg_setReg_same s.regs r val,
      fun r' hne => getReg_setReg_other s.regs r r' val hne⟩
  · exact ⟨_, _, exec_regInstr r eff val s, exec_regInstr r eff val' s, acceptWrite_resp_congr eff _ _ s⟩

/-- Settles O24: the outcomes of `AcceptWrite`, with no range check before it. -/
theorem registerWritesRejectedOrQueued : Obligations.RegisterWritesRejectedOrQueued := by
  intro r eff val s
  obtain ⟨hbad, -, hfull, hroom⟩ := exec_outcomes_of_acceptWrite fun _ : True => exec_regInstr r eff val s
  exact ⟨hbad trivial, hfull trivial, hroom trivial⟩

/-! ## One register each

For a width below 16 the stored `val.setWidth width` and the slice `val[width-1 : 0]` of the statements are one value by
computation; a register of 16 bits stores `val` itself. -/

/-- Settles O18: the immediate write of each register of brightness, mode, mosaic, sprites and Mode 7. -/
theorem wrRegPictureObjectsMode7 : Obligations.WrRegPictureObjectsMode7 := by
  intro eff val s hnow
  have hstored (r : RegName) := exec_regInstr_now hnow r val
  exact ⟨hstored .bright, hstored .bgmode, hstored .mosaic, hstored .mosaicph, hstored .obsel, hstored .m7sel,
    hstored .m7a, hstored .m7b, hstored .m7c, hstored .m7d, hstored .m7x, hstored .m7y⟩

/-- Settles O19: the immediate write of each tilemap and bitmap base. -/
theorem wrRegBackgroundBases : Obligations.WrRegBackgroundBases := by
  intro eff val s hnow
  have hstored (r : RegName) := exec_regInstr_now hnow r val
  exact ⟨hstored .bg1sc, hstored .bg2sc, hstored .bg3sc, hstored .bg4sc, hstored .bg1nba, hstored .bg2nba,
    hstored .bg3nba, hstored .bg4nba⟩

/-- Settles O20: the immediate write of each scroll register. -/
theorem wrRegBackgroundScroll : Obligations.WrRegBackgroundScroll := by
  intro eff val s hnow
  have hstored (r : RegName) := exec_regInstr_now hnow r val
  exact ⟨hstored .bg1hofs, hstored .bg2hofs, hstored .bg3hofs, hstored .bg4hofs, hstored .bg1vofs, hstored .bg2vofs,
    hstored .bg3vofs, hstored .bg4vofs⟩

/-- Settles O21: the immediate write of each window edge and window select. -/
theorem wrRegWindows : Obligations.WrRegWindows := by
  intro eff val s hnow
  have hstored (r : RegName) := exec_regInstr_now hnow r val
  exact ⟨hstored .wh0, hstored .wh1, hstored .wh2, hstored .wh3, hstored .wselBg1, hstored .wselBg2,
    hstored .wselBg3, hstored .wselBg4, hstored .wselObj, hstored .wselCol⟩

/-- Settles O22: the immediate write of each register of the screens, colour math and interlace. -/
theorem wrRegScreensColourMath : Obligations.WrRegScreensColourMath := by
  intro eff val s hnow
  have hstored (r : RegName) := exec_regInstr_now hnow r val
  exact ⟨hstored .tm, hstored .ts, hstored .tmw, hstored .tsw, hstored .cgwsel, hstored .cgadsub,
    hstored .fixedcolor, hstored .interlace⟩

end Sys2Proof.Machine
end

section
/-! Rejection (60_exceptions.md R341 to R348): the headers that are `E_DECODE`, the one response that every command has,
what a rejected command leaves, and the order of the checks. -/

namespace Sys2Proof

/-! ## Illegal headers -/

/-- The headers of R343: a reserved opcode, a must-be-zero field of the opcode's format that is not zero, or a `WR_REG`
of a register that does not exist. -/
def IllegalHeader (w : Word) : Prop :=
  (opField w).toNat ∉ [0x00, 0x01, 0x02, 0x03, 0x04, 0x10, 0x11, 0x12] ∨
    ((opField w).toNat ∈ [0x00, 0x11, 0x12] ∧ w.extractLsb' 0 56 ≠ 0) ∨
    ((opField w).toNat = 0x10 ∧ w.extractLsb' 16 40 ≠ 0) ∨
    ((opField w).toNat ∈ [0x01, 0x02, 0x04] ∧ w.extractLsb' 32 15 ≠ 0) ∨
    ((opField w).toNat = 0x03 ∧ w.extractLsb' 34 5 ≠ 0) ∨
    ((opField w).toNat = 0x04 ∧ 0x2D < (hiField w).toNat)

theorem midZero_iff {w : Word} : midZero w = true ↔ w.extractLsb' 32 15 = 0#15 := beq_iff_eq

/-- A header that denotes a command is legal. -/
theorem Denotes.not_illegalHeader {w : Word} {p : List Word} {i : Instr} (h : Denotes w p i) : ¬ IllegalHeader w := by
  cases h with
  | wrReg r hop hzero hnum =>
    have hr := Machine.number_lt r
    have hnum' : ¬ 0x2D < (hiField w).toNat := by omega
    simp [IllegalHeader, hop, midZero_iff.1 hzero, hnum']
  | wrVram hop hzero => simp [IllegalHeader, hop, midZero_iff.1 hzero]
  | wrCgram hop hzero => simp [IllegalHeader, hop, midZero_iff.1 hzero]
  | _ hop hzero => simp [IllegalHeader, hop, hzero]

/-- A legal header denotes a command, whatever its payload. -/
theorem exists_denotes_of_not_illegalHeader {w : Word} (p : List Word) (h : ¬ IllegalHeader w) :
    ∃ i, Denotes w p i := by
  simp only [IllegalHeader, not_or, not_and, not_not] at h
  obtain ⟨hop, hN, hL, hV, hO, hR⟩ := h
  simp only [List.mem_cons, List.not_mem_nil, or_false] at hop hN hV
  have hopField {k : BitVec 8} (hk : (opField w).toNat = k.toNat) : opField w = k := BitVec.eq_of_toNat_eq hk
  obtain hk | hk | hk | hk | hk | hk | hk | hk := hop
  · exact ⟨_, .nop (hopField hk) (hN (by omega))⟩
  · exact ⟨_, .wrVram (hopField hk) (midZero_iff.2 (hV (by omega)))⟩
  · exact ⟨_, .wrCgram (hopField hk) (midZero_iff.2 (hV (by omega)))⟩
  · exact ⟨_, .wrOam (hopField hk) (hO hk)⟩
  · obtain ⟨r, hr⟩ := Machine.ofNumber_some (hiField w).toNat (Nat.not_lt.1 (hR hk))
    exact ⟨_, .wrReg r (hopField hk) (midZero_iff.2 (hV (by omega))) (ofNumber_eq_some_iff.1 hr)⟩
  · exact ⟨_, .renderLine (hopField hk) (hL hk)⟩
  · exact ⟨_, .renderFrame (hopField hk) (hN (by omega))⟩
  · exact ⟨_, .getFrame (hopField hk) (hN (by omega))⟩

/-- An illegal header is `E_DECODE`, and its payload words go with it (R343; 30_encoding.md R116). -/
theorem decode_of_illegalHeader {w : Word} {ws : List Word} (hlen : payloadCount w ≤ ws.length)
    (h : IllegalHeader w) : ∃ e, decode (w :: ws) = .illegal e (ws.drop (payloadCount w)) := by
  cases hc : decodeCommand w (ws.take (payloadCount w)) with
  | ok i => exact absurd h (decodeCommand_eq_ok_iff.1 hc).not_illegalHeader
  | error e => exact ⟨e, decode_of_error hlen hc⟩

/-- A legal header with its payload is a command (R116). -/
theorem decode_of_not_illegalHeader {w : Word} {ws : List Word} (hlen : payloadCount w ≤ ws.length)
    (h : ¬ IllegalHeader w) : ∃ i, decode (w :: ws) = .command i (ws.drop (payloadCount w)) := by
  obtain ⟨i, hi⟩ := exists_denotes_of_not_illegalHeader (ws.take (payloadCount w)) h
  exact ⟨i, decode_eq_command_iff.2 ⟨hlen, hi, rfl⟩⟩

/-- No header but that of `WR_VRAM` has a payload to go with it (R116). -/
theorem decode_of_illegalHeader_alone {w : Word} (ws : List Word) (hop : opField w ≠ 0x01#8) (h : IllegalHeader w) :
    ∃ e, decode (w :: ws) = .illegal e ws := by
  have hcount : payloadCount w = 0 := if_neg hop
  simpa [hcount] using decode_of_illegalHeader (ws := ws) (by omega) h

/-- What follows a rejected header is what follows its payload (R116, R341). -/
theorem rest_of_decode_eq_illegal {w : Word} {ws rest : List Word} {e : DecodeError}
    (h : decode (w :: ws) = .illegal e rest) : rest = ws.drop (payloadCount w) := by
  rcases Nat.lt_or_ge ws.length (payloadCount w) with hlen | hlen
  · rw [decode_of_missing hlen] at h
    cases h
  · cases hc : decodeCommand w (ws.take (payloadCount w)) with
    | ok i =>
      rw [decode_of_ok hlen hc] at h
      cases h
    | error e' =>
      rw [decode_of_error hlen hc] at h
      cases h
      rfl

end Sys2Proof

namespace Sys2Proof.Machine

theorem step_of_illegal {s : State} {e : DecodeError} {rest : List Word} (h : decode s.stream = .illegal e rest) :
    step s = .next (reject (s.withStream rest) .eDecode) := by
  simp only [step, fetch, h]

/-- Settles O7: `IllegalHeader` is the statement's `bad`, and decides between rejection and a command. -/
theorem illegalHeadersAreRejected : Obligations.IllegalHeadersAreRejected := by
  rintro s w ws _ hstream rfl hlen _ rfl
  rw [hstream]
  refine ⟨fun hbad => ?_, decode_of_not_illegalHeader hlen⟩
  obtain ⟨e, he⟩ := decode_of_illegalHeader hlen hbad
  exact step_of_illegal (hstream ▸ he)

/-! ## Every command answers -/

/-- Accepting a write answers `OK`, or rejects and does nothing else (40_memory_write_commands.md R140). -/
theorem acceptWrite_ok_or_reject (e : Tag) (a : WriteAct) (s : State) :
    (∃ u, acceptWrite e a s = respond u .ok) ∨ ∃ c, acceptWrite e a s = reject s c := by
  obtain ⟨heq, -⟩ | ⟨heq, -⟩ | ⟨heq, -⟩ | ⟨heq, -⟩ := acceptWrite_cases e a s
  · exact .inr ⟨_, heq⟩
  · exact .inl ⟨_, heq⟩
  · exact .inr ⟨_, heq⟩
  · exact .inl ⟨_, heq⟩

/-- A write command is `AcceptWrite` in every state, or out of range in every state; the other four are left. -/
theorem exec_forms (i : Instr) :
    (∃ e a, ∀ s, exec i s = .next (acceptWrite e a s)) ∨ (∀ s, exec i s = .next (reject s .eRange)) ∨
      i = .nop ∨ (∃ n, i = .renderLine n) ∨ i = .renderFrame ∨ i = .getFrame := by
  induction i using Instr.byForm with
  | nop | renderFrame | getFrame => simp
  | renderLine n => exact .inr (.inr (.inr (.inl ⟨n, rfl⟩)))
  | wrReg r e v => exact .inl ⟨e, _, exec_regInstr r e v⟩
  | wrVram e o d =>
    by_cases h : o.toNat + d.length ≤ 32768
    · exact .inl ⟨e, _, fun s => exec_wrVram_fits e o d s h⟩
    · exact .inr (.inl fun s => exec_wrVram_range e o d s (Nat.lt_of_not_le h))
  | wrCgram e j v =>
    by_cases h : j.toNat ≤ 255
    · exact .inl ⟨e, _, fun s => exec_wrCgram_fits e j v s h⟩
    · exact .inr (.inl fun s => exec_wrCgram_range e j v s (Nat.lt_of_not_le h))
  | wrOam e j f =>
    by_cases h : j.toNat ≤ 127
    · exact .inl ⟨e, _, fun s => exec_wrOam_fits e j f s h⟩
    · exact .inr (.inl fun s => exec_wrOam_range e j f s (Nat.lt_of_not_le h))

/-- A command answers something other than a rejection, or rejects and does nothing else (R341). -/
theorem exec_answers_or_rejects (i : Instr) (s : State) :
    (∃ u v, exec i s = .next (respond u v) ∧ ∀ c, v ≠ .rej c) ∨ ∃ c, exec i s = .next (reject s c) := by
  obtain ⟨e, a, heq⟩ | heq | rfl | ⟨n, rfl⟩ | rfl | rfl := exec_forms i
  · obtain ⟨u, ha⟩ | ⟨c, ha⟩ := acceptWrite_ok_or_reject e a s <;> rw [heq, ha]
    · exact .inl ⟨u, .ok, rfl, nofun⟩
    · exact .inr ⟨c, rfl⟩
  · exact .inr ⟨_, heq s⟩
  · exact .inl ⟨_, _, rfl, nofun⟩
  · by_cases h : n.toNat = s.next
    · exact .inl ⟨_, _, exec_renderLine_next n s h, nofun⟩
    · exact .inr ⟨_, exec_renderLine_bad n s h⟩
  · by_cases h : midFrame s
    · exact .inr ⟨_, exec_renderFrame_mid s h⟩
    · exact .inl ⟨_, _, exec_renderFrame_whole s h, nofun⟩
  · exact .inl ⟨_, _, rfl, nofun⟩

theorem exec_responds (i : Instr) (s : State) : ∃ u v, exec i s = .next (respond u v) := by
  obtain ⟨u, v, heq, -⟩ | ⟨c, heq⟩ := exec_answers_or_rejects i s
  · exact ⟨u, v, heq⟩
  · exact ⟨s, .rej c, heq⟩

theorem exec_completes (i : Instr) (s : State) : completes (exec i s) := by
  obtain ⟨u, v, heq⟩ := exec_responds i s
  exact ⟨_, heq⟩

/-- Settles O8: a command completes, and a step is idle, rejects a header or executes a command. -/
theorem everyStepCompletes : Obligations.EveryStepCompletes := by
  refine ⟨fun s => ?_, exec_completes⟩
  obtain heq | ⟨ws, heq⟩ | ⟨i, ws, heq⟩ := step_cases s <;> rw [heq]
  · exact ⟨_, rfl⟩
  · exact ⟨_, rfl⟩
  · exact exec_completes _ _

/-! ## No command reads the response before it -/

theorem applyAct_respond (a : WriteAct) (s : State) (v : Response) :
    applyAct a (respond s v) = respond (applyAct a s) v := applyActs_respond [a] s v

theorem acceptWrite_respond (e : Tag) (a : WriteAct) (s : State) (v : Response) :
    acceptWrite e a (respond s v) = acceptWrite e a s := by
  unfold acceptWrite
  rw [applyAct_respond]
  rfl

theorem linesFrom_respond (n k : Nat) (s : State) (v : Response) :
    linesFrom n k (respond s v) = respond (linesFrom n k s) v := by
  induction k generalizing n s with
  | zero => rfl
  | succ k ih => rw [linesFrom, line_respond, ih, linesFrom]

theorem exec_respond (i : Instr) (s : State) (v : Response) : exec i (respond s v) = exec i s := by
  obtain ⟨e, a, heq⟩ | heq | rfl | ⟨n, rfl⟩ | rfl | rfl := exec_forms i
  · rw [heq, heq, acceptWrite_respond]
  · rw [heq, heq]
    rfl
  · rfl
  · exact exec_renderLine_respond n s v
  · by_cases h : midFrame s
    · rw [exec_renderFrame_mid s h, exec_renderFrame_mid (respond s v) h]
      rfl
    · rw [exec_renderFrame_whole s h, exec_renderFrame_whole (respond s v) h, respond_cfg, linesFrom_respond]
      rfl
  · rfl

/-- The same of the response a state holds before its first command (70_reset_and_hazards.md R371). -/
theorem exec_withResp (i : Instr) (s : State) (v : Option Response) : exec i { s with resp := v } = exec i s :=
  (exec_respond i { s with resp := v } .ok).symm.trans (exec_respond i s .ok)

/-- Settles O36: a command answers or rejects, none reads the latest response, and a rejected header takes its payload
with it. -/
theorem rejectedCommandsChangeNothing : Obligations.RejectedCommandsChangeNothing := by
  refine ⟨fun i s => ?responds, fun i s t c he hc => ?unchanged, exec_withResp,
    fun _ _ _ _ => rest_of_decode_eq_illegal⟩
  case responds =>
    obtain ⟨u, v, heq⟩ := exec_responds i s
    exact ⟨_, v, heq, rfl⟩
  case unchanged =>
    obtain ⟨u, v, heq, hv⟩ | ⟨c', heq⟩ := exec_answers_or_rejects i s <;>
      obtain rfl := Host.Outcome.next.inj (he.symm.trans heq)
    · exact absurd (Option.some.inj hc) (hv c)
    · rw [← hc]
      rfl

/-! ## The order of the checks -/

/-- A write that passes its range check is rejected for its tag, or else for a full queue (R348). -/
theorem acceptWrite_of_bad {s : State} {eff : Tag} {code : RejCode}
    (h : (¬ tagLegal s eff ∧ code = .eTag) ∨ (tagLater s eff ∧ queueIsFull s ∧ code = .eFull)) (a : WriteAct) :
    acceptWrite eff a s = reject s code := by
  obtain ⟨hbad, rfl⟩ | ⟨hlater, hfull, rfl⟩ := h
  · exact acceptWrite_badTag eff a s hbad
  · exact acceptWrite_of_queueIsFull a hlater hfull

/-- Settles O37: each command's checks in the order they come, and the two examples of R348. -/
theorem orderOfChecks : Obligations.OrderOfChecks := by
  refine ⟨fun _ _ _ => step_of_illegal, fun s eff off idx val data i f => ?range,
    fun s eff r off idx val data i f code h => ?accept, fun s n => exec_renderLine_bad n s, exec_renderFrame_mid,
    fun s => exec_wrCgram_range 500 300 0 s (by decide), fun ws => ?noRegister, rfl, rfl, rfl, rfl, rfl⟩
  case range =>
    exact ⟨exec_wrVram_range eff off data s, exec_wrCgram_range eff idx val s, exec_wrOam_range eff i f s⟩
  case accept =>
    have hrej := acceptWrite_of_bad h
    exact ⟨(exec_regInstr r eff val s).trans (congrArg _ (hrej _)),
      fun hfits => (exec_wrVram_fits eff off data s hfits).trans (congrArg _ (hrej _)),
      fun hfits => (exec_wrCgram_fits eff idx val s hfits).trans (congrArg _ (hrej _)),
      fun hfits => (exec_wrOam_fits eff i f s hfits).trans (congrArg _ (hrej _))⟩
  case noRegister =>
    have hillegal : IllegalHeader 0x04FA000000400000 := by
      unfold IllegalHeader
      decide
    exact decode_of_illegalHeader_alone ws (by decide) hillegal

end Sys2Proof.Machine
end

section
/-! The render commands (47_render_commands.md R321 to R330): what a scanline answers and writes, what it depends on,
the scanlines of a frame, and the sequencer's transitions. -/

namespace Sys2Proof.Machine

/-! ## One scanline -/

/-- Settles O28: out of order `E_SEQ`, in order the row of the scene, which is the one just written. -/
theorem renderLineAnswersItsRow : Obligations.RenderLineAnswersItsRow := by
  refine fun n s => ⟨exec_renderLine_bad n s, fun hn => ⟨_, exec_renderLine_next n s hn, ?_⟩⟩
  simp

/-- With no write due at its boundary a scanline leaves memories, registers and queue alone (R323). -/
theorem line_of_nothing_due {n : Nat} {s : State} (h : ∀ e ∈ s.pending, e.eff.toNat ≠ n + 1) :
    (line n s).mem = s.mem ∧ (line n s).regs = s.regs ∧ (line n s).pending = s.pending := by
  obtain ⟨-, heq⟩ | ⟨-, heq⟩ := endLine_cases n (drawLine n s) <;> rw [line, heq]
  · exact ⟨rfl, rfl, rfl⟩
  · rw [commit_none (n + 1) ((drawLine n s).withSeq _) h]
    exact ⟨rfl, rfl, rfl⟩

/-- At every column of the picture the buffers of a scanline hold what merging the offers there gives, and the row is
made from them (R321; 44_compositor.md R218, 45_color_math.md R250). -/
theorem exists_line_column (sc : Scene) (n : Nat) {col : Nat} (hcol : col < sc.cfg.width) :
    ∃ o m b, (lineObj sc n)[col]? = some o ∧ (lineMain sc n)[col]? = some m ∧ (lineSub sc n)[col]? = some b ∧
      m = mergeCell sc .main o (columnX sc.cfg col) n ∧ b = mergeCell sc .sub o (columnX sc.cfg col) n ∧
      (lineRow sc n)[col]? = some (outputPixel sc m b (columnX sc.cfg col)) := by
  have ho := List.getElem?_eq_getElem (hcol.trans_eq (lineObj_length sc n).symm)
  have hm := buildScreen_get sc .main _ n col _ hcol ho
  have hb := buildScreen_get sc .sub _ n col _ hcol ho
  exact ⟨_, _, _, ho, hm, hb, rfl, rfl, outputRow_get sc _ _ col _ _ hcol hm hb⟩

/-- Settles O29: the frame of `Line(n)`, and its buffers column by column. -/
theorem lineWritesOnlyItsRow : Obligations.LineWritesOnlyItsRow := by
  intro n s hn
  refine ⟨_, exec_renderLine_next n s hn, ?_⟩
  simp only [respond_cfg, respond_stream, respond_fb, respond_objbuf, respond_mainbuf, respond_subbuf, respond_seq,
    respond_mem, respond_regs, respond_pending, line_cfg, line_stream, line_fb, line_objbuf, line_mainbuf,
    line_subbuf, line_seq, fbRow_writeRow_same, lineRow_length, lineObj_length, lineMain_length, lineSub_length,
    State.scene_cfg, true_and]
  refine ⟨fun y hy => fbRow_writeRow_other _ _ _ _ _ hy, fun col x hcol hx => ?_, line_of_nothing_due⟩
  subst hx
  exact exists_line_column s.scene n.toNat hcol

/-- Settles O30: each part of the outcome is the scene's. -/
theorem lineDependsOnTheSceneOnly : Obligations.LineDependsOnTheSceneOnly := by
  intro n s s' hscene hn hn'
  refine ⟨_, _, exec_renderLine_next n s hn, exec_renderLine_next n s' hn', ?_⟩
  simp [hscene]

/-! ## The scanlines of a frame -/

/-- With nothing queued a scanline leaves the scene and the queue alone, so the next one sees the same (R330). -/
theorem line_of_pending_nil {n : Nat} {s : State} (h : s.pending = []) :
    (line n s).scene = s.scene ∧ (line n s).pending = [] := by
  obtain ⟨hmem, hregs, hpending⟩ := line_of_nothing_due (n := n) (s := s) (by simp [h])
  exact ⟨by simp only [State.scene, line_cfg, hmem, hregs], hpending.trans h⟩

/-- Scanlines do not write the rows before them (R323). -/
theorem fbRow_linesFrom_before {n k y : Nat} (s : State) (hy : y < n) :
    fbRow s.cfg (linesFrom n k s).fb y = fbRow s.cfg s.fb y := by
  induction k generalizing n s with
  | zero => rfl
  | succ k ih =>
    have hrest := ih (line n s) (Nat.lt_succ_of_lt hy)
    rw [line_cfg] at hrest
    rw [linesFrom, hrest, line_fb, fbRow_writeRow_other _ _ _ _ _ hy.ne]

/-- With nothing queued every scanline writes the row that the scene gives (R326, R330). -/
theorem fbRow_linesFrom {n k y : Nat} {s : State} (h : s.pending = []) (hn : n ≤ y) (hy : y < n + k) :
    fbRow s.cfg (linesFrom n k s).fb y = lineRow s.scene y := by
  induction k generalizing n s with
  | zero => omega
  | succ k ih =>
    obtain ⟨hscene, hpending⟩ := line_of_pending_nil (n := n) h
    rw [linesFrom]
    obtain rfl | hlt := hn.eq_or_lt
    · have hrest := fbRow_linesFrom_before (k := k) (line n s) (Nat.lt_succ_self n)
      rwa [line_cfg, line_fb, fbRow_writeRow_same] at hrest
    · have hrest := ih hpending (n := n + 1) (by omega) (by omega)
      rwa [line_cfg, hscene] at hrest

/-- In canonical form, frame buffers with the same rows in the picture are equal (10_state.md R65). -/
theorem fb_ext {c : Config} {fb fb' : FrameBuf} (h : fbWf c fb = true) (h' : fbWf c fb' = true)
    (hrows : ∀ y < c.hLines, fbRow c fb y = fbRow c fb' y) : fb = fb' := by
  simp only [fbWf, Bool.and_eq_true] at h h'
  refine cells_ext (blankRow c) c.hLines fb fb' h.1 h'.1 fun y => ?_
  rcases Nat.lt_or_ge y c.hLines with hy | hy
  · exact hrows y hy
  · rw [readCell_outside _ _ _ _ h.1 hy, readCell_outside _ _ _ _ h'.1 hy]

/-- A whole frame from outside one keeps the invariant (R326). -/
theorem State.Inv.wholeFrame {s : State} (h : s.Inv) (hmid : ¬ midFrame s) : (linesFrom 0 s.cfg.hLines s).Inv :=
  h.linesFrom_at_next (next_eq_zero_of_not_midFrame hmid) (Nat.zero_add _).le

/-- The answer to a frame names the parameters it began with (R326, R329). -/
theorem frameResponse_linesFrom (n k : Nat) (s : State) :
    frameResponse (linesFrom n k s) =
      .okFrame (linesFrom n k s).fb s.cfg.width s.cfg.hLines s.cfg.pitch := by
  rw [frameResponse, linesFrom_cfg]

/-- Settles O31: every row of the picture is the scene's, and canonical frame buffers with the same rows are equal. -/
theorem sameSceneSameFrame : Obligations.SameSceneSameFrame := by
  intro s s' hinv hinv' hscene hp hp' hmid hmid'
  have hcfg : s.cfg = s'.cfg := congrArg Scene.cfg hscene
  have hwf := (hinv.wholeFrame hmid).fb
  have hwf' := (hinv'.wholeFrame hmid').fb
  rw [linesFrom_cfg] at hwf hwf'
  have hfb : (linesFrom 0 s.cfg.hLines s).fb = (linesFrom 0 s'.cfg.hLines s').fb := by
    refine fb_ext hwf (hcfg ▸ hwf') fun y hy => ?_
    rw [fbRow_linesFrom hp (Nat.zero_le y) (by omega), hscene, hcfg,
      fbRow_linesFrom hp' (Nat.zero_le y) (by rw [← hcfg]; omega)]
  refine ⟨_, _, exec_renderFrame_whole s hmid, exec_renderFrame_whole s' hmid', hfb, ?_⟩
  rw [respond_resp, respond_resp, frameResponse_linesFrom, frameResponse_linesFrom, hfb, hcfg]

/-- `NEXT` after scanlines that leave some of the picture (R321). -/
theorem linesFrom_next {n k : Nat} {s : State} (hn : s.next = n) (hk : n + k < s.cfg.hLines) :
    (linesFrom n k s).next = n + k := by
  cases k with
  | zero => exact hn
  | succ k => exact linesFrom_succ n k s ▸ line_next _ _ (by rw [linesFrom_cfg]; omega)

/-- The scanlines of a whole frame are those before the last, and the last (R326). -/
theorem exists_linesFrom_wholeFrame {s : State} (h : 1 ≤ s.cfg.hLines) :
    ∃ k, k + 1 = s.cfg.hLines ∧ linesFrom 0 s.cfg.hLines s = line k (linesFrom 0 k s) := by
  obtain ⟨k, hk⟩ := Nat.exists_eq_add_of_le' h
  refine ⟨k, hk.symm, ?_⟩
  rw [hk, linesFrom_succ, Nat.zero_add]

/-- After a whole frame `SEQ` is `FrameComplete` (R326, R328). -/
theorem wholeFrame_seq {s : State} (h : 1 ≤ s.cfg.hLines) : (linesFrom 0 s.cfg.hLines s).seq = .frameComplete := by
  obtain ⟨k, hk, heq⟩ := exists_linesFrom_wholeFrame h
  rw [heq, line_seq, linesFrom_cfg, if_pos hk]

/-- After a whole frame nothing is queued: the last scanline has no boundary, and the invariant leaves no entry for it
(R326; 10_state.md R62). -/
theorem State.Inv.wholeFrame_pending {s : State} (h : s.Inv) (hmid : ¬ midFrame s) :
    (linesFrom 0 s.cfg.hLines s).pending = [] := by
  obtain ⟨k, hk, heq⟩ := exists_linesFrom_wholeFrame (one_le_hLines_of_wf h.cfg)
  have hzero := next_eq_zero_of_not_midFrame hmid
  have hnext : (linesFrom 0 k s).next = k := (linesFrom_next hzero (by omega)).trans (Nat.zero_add k)
  have hinv : (linesFrom 0 k s).Inv := h.linesFrom_at_next hzero (by omega)
  rw [heq, line_of_last (by rw [linesFrom_cfg, hk])]
  exact hinv.pending_eq_nil_of_last (by rw [hnext, linesFrom_cfg, hk])

/-- The commands for the scanlines from `NEXT` on do those scanlines, and leave a response of their own (R326). -/
theorem execAll_lineCommands {n k : Nat} {s : State} (hn : s.next = n) (hk : n + k ≤ s.cfg.hLines)
    (hlines : s.cfg.hLines ≤ 65536) :
    ∃ v, execAll (lineCommands n k) s = .next { linesFrom n k s with resp := v } := by
  induction k with
  | zero => exact ⟨s.resp, rfl⟩
  | succ k ih =>
    obtain ⟨v, hv⟩ := ih (by omega)
    have hnext : (linesFrom n k s).next = n + k := linesFrom_next hn (by omega)
    have hlast := exec_renderLine_ofNat_next (s := linesFrom n k s) (hnext.trans_lt (by omega))
    rw [hnext] at hlast
    rw [lineCommands_succ, execAll_append hv, linesFrom_succ]
    exact ⟨_, execAll_cons ((exec_withResp _ _ v).trans hlast) []⟩

/-- At brightness 0 every row is black, whatever the memories hold (45_color_math.md R248, R250). -/
theorem lineRow_of_bright_zero {sc : Scene} (h : sc.regs.bright = 0) (n : Nat) :
    lineRow sc n = List.replicate sc.cfg.width { r := 0, g := 0, b := 0, a := 255 } := by
  refine List.eq_replicate_iff.2 ⟨lineRow_length sc n, fun px hpx => ?_⟩
  obtain ⟨m, -, b, -, x, rfl⟩ := exists_outputPixel_of_mem_lineRow hpx
  simp [outputPixel, brightPixel, brightChannel, h]

/-- A frame right after reset is black (70_reset_and_hazards.md R374). -/
theorem fbRow_frame_after_reset (c : Config) (m : Memory) (fb : FrameBuf) {y : Nat} (hy : y < c.hLines) :
    fbRow c (linesFrom 0 c.hLines (State.resetWith c m fb)).fb y =
      List.replicate c.width { r := 0, g := 0, b := 0, a := 255 } := by
  have hrow := fbRow_linesFrom (s := State.resetWith c m fb) rfl (Nat.zero_le y) (hy.trans_eq (Nat.zero_add _).symm)
  exact hrow.trans (lineRow_of_bright_zero rfl y)

theorem not_midFrame_resetWith (c : Config) (m : Memory) (fb : FrameBuf) : ¬ midFrame (State.resetWith c m fb) :=
  nofun

/-- Settles O32: a frame is its scanlines, and from a reset each of them is black; its header has no operand. -/
theorem renderFrameIsItsLines : Obligations.RenderFrameIsItsLines := by
  refine ⟨exec_renderFrame_mid, fun s hmid hlines => ?lines, rfl, fun w ws hop hzero => ?header,
    fun c m f _ _ _ => ?black⟩
  case lines =>
    obtain ⟨v, hv⟩ := execAll_lineCommands (next_eq_zero_of_not_midFrame hmid) (Nat.zero_add _).le hlines
    refine ⟨_, hv, ?_, fun h => ⟨wholeFrame_seq (one_le_hLines_of_wf h.cfg), h.wholeFrame_pending hmid⟩⟩
    rw [exec_renderFrame_whole s hmid, frameResponse_linesFrom]
    rfl
  case header =>
    have hopField : opField w = 0x11#8 := hop
    refine decode_of_illegalHeader_alone ws (by rw [hopField]; decide) (.inr (.inl ⟨?_, hzero⟩))
    rw [hopField]
    decide
  case black =>
    refine ⟨_, exec_renderFrame_whole _ (not_midFrame_resetWith c m f), fun y col hy hcol => ?_⟩
    have hrow := fbRow_frame_after_reset c m f hy
    exact (congrArg (List.getD · col blankPixel) hrow).trans (by simp [hcol])

/-- Settles O33: `GET_FRAME` is its response. -/
theorem getFrameAnswersTheFrameBuffer : Obligations.GetFrameAnswersTheFrameBuffer := fun _ => rfl

/-- Settles O34: the sequencer after each render command; every other command keeps it. -/
theorem sequencerTransitions : Obligations.SequencerTransitions := by
  intro i s hlines
  obtain ⟨t, ht⟩ := exec_completes i s
  refine ⟨t, ht, ?inOrder, ?outOfOrder, ?midFrame, ?wholeFrame, fun hline hframe => ?other⟩
  case inOrder =>
    rintro k rfl hk
    obtain rfl := Host.Outcome.next.inj (ht.symm.trans (exec_renderLine_next k s hk))
    rw [respond_seq, line_seq]
    exact ⟨fun h => if_pos h, fun h => if_neg h⟩
  case outOfOrder =>
    rintro k rfl hk
    obtain rfl := Host.Outcome.next.inj (ht.symm.trans (exec_renderLine_bad k s hk))
    exact ⟨rfl, rfl⟩
  case midFrame =>
    rintro rfl hmid
    obtain rfl := Host.Outcome.next.inj (ht.symm.trans (exec_renderFrame_mid s hmid))
    exact ⟨rfl, rfl⟩
  case wholeFrame =>
    rintro rfl hmid
    obtain rfl := Host.Outcome.next.inj (ht.symm.trans (exec_renderFrame_whole s hmid))
    exact wholeFrame_seq hlines
  case other =>
    have hpicture := keptByAccepting_picture.exec ht (fun _ _ => not_false) hline hframe
    simp only [Prod.mk.injEq] at hpicture
    obtain ⟨-, hseq, -⟩ := hpicture
    exact hseq

end Sys2Proof.Machine
end

section
/-! Reset (70_reset_and_hazards.md R370 to R374): what the all-zero register file means, the invariant, and the black
picture. -/

namespace Sys2Proof.Machine

/-! ## The all-zero register file -/

/-- With no window enabled in any set nothing is inside a window (R371; 44_compositor.md R227). -/
theorem win_zero (k : Src) (x : Int) : win Regs.zero k x = false := by
  have hset : wsel Regs.zero k = 0 := by
    cases k with
    | bg l => cases l <;> rfl
    | obj | backdrop => rfl
  exact windowSelect_neither _ _ (by rw [hset]; rfl) (by rw [hset]; rfl)

/-- With no enable bit set colour math is off everywhere (R371; 45_color_math.md R243). -/
theorem mathOn_zero (cell : ScreenCell) (prevent : Bool) : mathOn Regs.zero cell prevent = false := by
  have hen : mathEn Regs.zero cell.src = false := BitVec.getLsbD_zero
  rw [mathOn, hen, Bool.false_and, Bool.false_and]

/-- Region 0 is nowhere, so nothing is clipped and colour math is prevented nowhere (R371; 45_color_math.md R242). -/
theorem regions_zero (x : Int) : clipAt Regs.zero x = false ∧ preventAt Regs.zero x = false := by
  have hclip : cgClip Regs.zero = 0 := rfl
  have hprevent : cgPrevent Regs.zero = 0 := rfl
  simp [clipAt, preventAt, region, hclip, hprevent]

/-- What the zero fields of a background layer mean (R371; 10_state.md R33, R35 to R37). -/
theorem background_zero (l : Bg) :
    mosaicN Regs.zero l = 1 ∧ mapBase Regs.zero l = 0 ∧ mapW Regs.zero l = 32 ∧ mapH Regs.zero l = 32 ∧
      tileSize Regs.zero l = 8 ∧ chrBase Regs.zero l = 0 ∧ bgHofs Regs.zero l = 0 ∧ bgVofs Regs.zero l = 0 := by
  cases l <;> decide

/-- Settles O1: the register file is `Regs.zero`, read field by field. -/
theorem resetLeavesDefinedState : Obligations.ResetLeavesDefinedState := by
  rintro c m fb _ rfl
  have hpreset : objPreset Regs.zero = 0 := rfl
  have hsmall : objDim Config.default (objPreset Regs.zero) false = { w := 8, h := 8 } := by rw [hpreset]; rfl
  have hlarge : objDim Config.default (objPreset Regs.zero) true = { w := 16, h := 16 } := by rw [hpreset]; rfl
  have hExtbg : m7Extbg Regs.zero = false := BitVec.getLsbD_zero
  have hDirect : cgDirect Regs.zero = false := BitVec.getLsbD_zero
  exact ⟨getReg_zero, rfl, rfl, rfl, rfl, rfl, background_zero, hsmall, hlarge, rfl, rfl, rfl, rfl, rfl, rfl, rfl,
    rfl, hExtbg, rfl, rfl, rfl, rfl, win_zero, rfl, rfl, rfl, rfl, hDirect, regions_zero, mathOn_zero, rfl, rfl⟩

/-- Settles O2: reset meets the invariant, and `State.reset` is the one with the default parameters and empty
memories. -/
theorem resetMeetsInvariant : Obligations.ResetMeetsInvariant :=
  ⟨fun _ _ _ => State.Inv.resetWith, State.Inv.resetWith (by decide) Memory.wf_blank rfl⟩

/-- Settles O35: brightness is 0 after reset, so whatever is rendered is black. -/
theorem firstFrameAfterResetIsBlack : Obligations.FirstFrameAfterResetIsBlack := by
  intro c m fb _ _ _
  refine ⟨fun i => exec_completes i _, ⟨_, exec_renderLine_next 0 _ rfl, ?_⟩,
    ⟨_, exec_renderFrame_whole _ (not_midFrame_resetWith c m fb), fun y hy => fbRow_frame_after_reset c m fb hy⟩⟩
  exact congrArg (fun row => some (Response.okRow row)) (lineRow_of_bright_zero rfl 0)

end Sys2Proof.Machine
end

section
/-! Widescreen (47_render_commands.md R331): what a position shows depends on the padding only through `OBJBUF`. -/

namespace Sys2Proof.Machine

/-- The scene with no columns beside the native width (00_scope.md R7). -/
def Scene.native (sc : Scene) : Scene := { sc with cfg := { sc.cfg with padL := 0, padR := 0 } }

section
variable (sc : Scene) (y : Nat)

/-- Merging at a position does not read the padding (41_background_renderer.md R170, 43_mode7.md R210). -/
theorem mergeCell_native (s : Screen) (o : Option ObjPixel) (x : Int) :
    mergeCell sc.native s o x y = mergeCell sc s o x y := rfl

/-- The output of a position does not read the padding (45_color_math.md R250). -/
theorem outputPixel_native (m b : ScreenCell) (x : Int) : outputPixel sc.native m b x = outputPixel sc m b x := rfl

/-- Column `padL + c` of the wide row and column `c` of the native row are the same position (00_scope.md R7). -/
theorem columnX_wide (c : Nat) : columnX sc.cfg (sc.cfg.padL + c) = columnX sc.native.cfg c := by
  simp only [columnX, Scene.native]
  omega

/-- A row at a column is the output of what the two screens merge to there. -/
theorem lineRow_getD {col : Nat} (h : col < sc.cfg.width) (d : Pixel) :
    (lineRow sc y).getD col d =
      outputPixel sc (mergeCell sc .main ((lineObj sc y).getD col none) (columnX sc.cfg col) y)
        (mergeCell sc .sub ((lineObj sc y).getD col none) (columnX sc.cfg col) y) (columnX sc.cfg col) := by
  rw [lineRow, outputRow_getD _ _ _ _ _ h, lineMain, lineSub, buildScreen_getD _ _ _ _ _ _ h,
    buildScreen_getD _ _ _ _ _ _ h]

variable {sc y}

/-- A screen with sprites off does not read `OBJBUF` (44_compositor.md R218). -/
theorem mergeCell_of_obj_off {s : Screen} (hoff : (screenEn sc.regs s).getLsbD 4 = false) (o o' : Option ObjPixel)
    (x : Int) : mergeCell sc s o x y = mergeCell sc s o' x y := by
  have hnone (o : Option ObjPixel) : objOffers sc s x o = [] := by
    have hbit : layerBit (screenEn sc.regs s) .obj = false := hoff
    simp [objOffers, layerVisible, hbit]
  simp only [mergeCell, offersAt, hnone]

/-- The central columns of the wide row are the native row (R331). -/
theorem lineRow_centre {c : Nat} (hc : c < sc.cfg.wBase)
    (hobj : (∀ s, (screenEn sc.regs s).getLsbD 4 = false) ∨
      (lineObj sc y)[sc.cfg.padL + c]? = (lineObj sc.native y)[c]?) (d : Pixel) :
    (lineRow sc y).getD (sc.cfg.padL + c) d = (lineRow sc.native y).getD c d := by
  have hwide : sc.cfg.padL + c < sc.cfg.width := by
    unfold Config.width
    omega
  have hnative : c < sc.native.cfg.width := by
    simp only [Config.width, Scene.native]
    omega
  rw [lineRow_getD _ _ hwide, lineRow_getD _ _ hnative, outputPixel_native, mergeCell_native, mergeCell_native,
    columnX_wide]
  obtain hoff | hbuf := hobj
  · rw [mergeCell_of_obj_off (hoff .main), mergeCell_of_obj_off (hoff .sub)]
  · simp only [List.getD_eq_getElem?_getD, hbuf]

end

/-- Settles O58: both rows are made from the same cells at the central columns. -/
theorem widescreenKeepsTheCentre : Obligations.WidescreenKeepsTheCentre := by
  rintro n s _ hn rfl hobj
  refine ⟨_, _, exec_renderLine_next n s hn, exec_renderLine_next n _ hn, fun c hc => ?_⟩
  simp only [respond_cfg, respond_fb, line_cfg, line_fb, fbPixel, fbRow_writeRow_same]
  refine lineRow_centre (sc := s.scene) hc (hobj.imp (fun hoff screen => ?_) fun h => h c hc) blankPixel
  obtain ⟨htm, hts⟩ := hoff
  cases screen with
  | main => exact htm
  | sub => exact hts

end Sys2Proof.Machine
end
